-- ==== Sys2Proof/Machine/Arith.lean ====
section
/-! DEFINITION. The arithmetic primitives of 00_scope.md R11 and R12, exact on integers. -/

namespace Sys2Proof.Machine

/-- `sign(v)`: −1 if v < 0, +1 otherwise (00_scope.md R11). -/
def signOf (v : Int) : Int :=
  if v < 0 then -1 else 1

/-- `clamp(v, lo, hi)` (00_scope.md R11). -/
def clamp (v lo hi : Int) : Int :=
  min (max v lo) hi

/-- `rntz(num/den)`: round to nearest, ties toward zero (00_scope.md R12). With a = |num/den| and
f = floor(a), the test a − f > 1/2 is `2 · (|num| mod den) > den`. -/
def rntz (num : Int) (den : Nat) : Int :=
  let f := num.natAbs / den
  signOf num * (if 2 * (num.natAbs % den) > den then f + 1 else f : Nat)

/-- `trunc(num/den)` (00_scope.md R12). -/
def truncDiv (num : Int) (den : Nat) : Int :=
  signOf num * (num.natAbs / den : Nat)

/-- `refl(i, n)`, the reflect-101 border index (45_bluenoise_texture.md R232). -/
def reflIndex (i : Int) (n : Nat) : Nat :=
  if n = 1 then 0
  else
    let m := (i % (2 * ((n : Int) - 1))).toNat
    if m < n then m else 2 * (n - 1) - m

end Sys2Proof.Machine
end

