-- ==== Sys2Proof/Word.lean ====
section
/-! DEFINITION. The machine's word types. -/

namespace Sys2Proof

/-- A 32-bit register value or command word (10_state.md R32, 30_encoding.md R120). -/
abbrev Word := BitVec 32

/-- One 8-bit sample (10_state.md R55 to R57). -/
abbrev Byte := BitVec 8

end Sys2Proof
end

