-- ==== Sys2Proof/Config.lean ====
section
/-! DEFINITION. The implementation parameters of 00_scope.md R7 and the values the spec leaves
free. The parameters are one record that the model takes as an argument (it stands in State and no
step changes it, log 3). The free values are constants without a body: nothing can be proved of
what they are, so a statement holds for every choice of them. -/

namespace Sys2Proof

/-- The memory order of the three channels of a pixel (20_memory.md R83). -/
inductive ChannelOrder
  | bgr
  | rgb
deriving DecidableEq, Repr

/-- Threshold matrix cell [0][1] (42_bayer.md R175). -/
inductive BayerM01
  | v127
  | v128
deriving DecidableEq, Repr

/-- Rounding of the weighted error shares (44_error_diffusion.md R202). -/
inductive FsRound
  | rntz
  | trunc
deriving DecidableEq, Repr

/-- The error-diffusion threshold comparison (44_error_diffusion.md R203). -/
inductive FsThresh
  | ge128
  | gt128
deriving DecidableEq, Repr

/-- What the error-diffusion output holds at border pixels (44_error_diffusion.md R210, R211). -/
inductive FsBorder
  | raw
  | accSat
deriving DecidableEq, Repr

/-- The buffers of 10_state.md R55 to R60. -/
inductive BufId
  | inp
  | gray
  | out0
  | out1
  | out2
  | out3
  | acc
  | tex
  | texRaw
deriving DecidableEq, Repr

/-- The implementation parameters of 00_scope.md R7, but for `NoiseGen` and `TIME_IN`, which are
the free values below. -/
structure Config where
  /-- `BASE`: the bus address of register offset 0. -/
  base : Nat
  maxW : Nat
  maxH : Nat
  texMaxW : Nat
  texMaxH : Nat
  kradMax : Nat
  noiseBits : Nat
  /-- `GRAY_WEIGHTS`: cR, cG, cB, shift, bias. -/
  cR : Nat
  cG : Nat
  cB : Nat
  shift : Nat
  bias : Nat
  channelOrder : ChannelOrder
  bayerM01 : BayerM01
  fsRound : FsRound
  fsThresh : FsThresh
  fsBorder : FsBorder
deriving DecidableEq, Repr

/-- The default column of 00_scope.md R7. `MAX_W`, `MAX_H` and `BASE` are OPEN there: the first two
take the suggested 1024, the third 0 (DESIGN CHOICE, log 3). -/
def Config.default : Config where
  base := 0
  maxW := 1024
  maxH := 1024
  texMaxW := 64
  texMaxH := 64
  kradMax := 3
  noiseBits := 16
  cR := 4899
  cG := 9617
  cB := 1868
  shift := 14
  bias := 8192
  channelOrder := .bgr
  bayerM01 := .v127
  fsRound := .rntz
  fsThresh := .ge128
  fsBorder := .raw

/-- `NoiseGen` (43_random.md R185), OPEN: any total function of a 32-bit seed and a draw index. A
draw takes its low `NOISE_BITS` bits. Free value, log 4. -/
opaque Config.noiseGen : Word → Nat → Nat

/-- `TIME_IN` (10_state.md R66), OPEN: the value of each wall-clock sample, by the number of
the sample. Free value, log 5. -/
opaque Config.timeIn : Nat → Word

/-- What a host read of job-changed state returns while BUSY (20_memory.md R88, R91), by the offset
of the register and the number of the host's writes so far, so that reading again with no write in
between returns the same value (R89). Free value, log 6. -/
opaque Config.busyRead : Nat → Nat → Word

/-- What a buffer element that nothing has written since reset holds (10_state.md R70,
93_implementation_defined.md U1), by the number of resets, the buffer and the index; a buffer
narrower than 64 bits takes the low bits. Free value, log 7. -/
opaque Config.unwritten : Nat → BufId → Nat → BitVec 64

end Sys2Proof
end

