-- ==== Sys2Proof/Machine/State.lean ====
section
/-! DEFINITION. The machine's state as plain data, the state after reset, and the reasons a step
can stop. -/

namespace Sys2Proof.Machine

/-- The phases of a job (40_sequencer.md R150), and IDLE (10_state.md R63). -/
inductive Phase
  | idle
  | grayconv
  | bayer
  | random
  | fsInit
  | fsScan
  | fsBorder
  | texFill
  | texBlur
  | texNorm
  | blueDither
deriving DecidableEq, Repr

/-- The width of a bus access. Only `word` has a meaning (20_memory.md R81). -/
inductive AccessSize
  | byte
  | half
  | word
  | burst
deriving DecidableEq, Repr

/-- The direction of a bus access, with the data of a write (30_encoding.md R127). -/
inductive BusOp
  | read
  | write (v : Word)
deriving DecidableEq, Repr

/-- One access of the host on its bus (20_memory.md R80). -/
structure BusAccess where
  op : BusOp
  /-- The bus address; the spec gives the bus no width. -/
  addr : Nat
  size : AccessSize
deriving DecidableEq, Repr

/-- What the host or the environment does next (10_state.md R30, 60_exceptions.md R311; log 1). -/
inductive Input
  /-- The host's next access. `overlap` says whether the next input comes before the job that this
  access starts has completed (70_reset_and_hazards.md R352, log 2). -/
  | host (a : BusAccess) (overlap : Bool)
  /-- One step of the engine (40_sequencer.md R153). -/
  | engine
  /-- The platform asserts reset (70_reset_and_hazards.md R340). -/
  | reset
deriving DecidableEq, Repr

/-- The elements of a buffer written since reset, by index, indices strictly rising. An index that
is not listed has not been written (93_implementation_defined.md U1, log 8). `Cells 8` is a list of
`Host.Cell`. -/
abbrev Cells (w : Nat) :=
  List (Nat × BitVec w)

/-- The registers the host writes and the engine only reads, each without its reserved bits. -/
structure Regs where
  /-- `CTRL.IN_FMT` (10_state.md R34): true is one channel. -/
  inFmt : Bool
  /-- `CTRL.SEED_SRC` (R34): true takes register SEED. -/
  seedSrc : Bool
  /-- `CTRL.IRQ_EN` (R34). -/
  irqEn : Bool
  /-- `WIDTH` (R37). -/
  width : BitVec 16
  /-- `HEIGHT` (R37). -/
  height : BitVec 16
  /-- `TEX_W` (R38). -/
  texW : BitVec 16
  /-- `TEX_H` (R39). -/
  texH : BitVec 16
  /-- `KRAD` (R40). -/
  krad : BitVec 2
  /-- `KW0` to `KW3` (R41). -/
  kw0 : BitVec 16
  kw1 : BitVec 16
  kw2 : BitVec 16
  kw3 : BitVec 16
  /-- `SEED` (R42). -/
  seed : Word
  /-- `BUF_SEL` (R46). -/
  bufSel : BitVec 3
  /-- `BUF_ADDR` (R47). -/
  bufAddr : Word
deriving DecidableEq, Repr

/-- The fields of STATUS (10_state.md R36). -/
structure Status where
  busy : Bool
  done : Bool
  err : Bool
  wrbusy : Bool
  errCode : BitVec 4
  texValid : Bool
  lastOp : BitVec 4
deriving DecidableEq, Repr

/-- The read-only registers the engine writes. -/
structure Results where
  /-- `SEED_USED` (10_state.md R43). -/
  seedUsed : Word
  /-- `TEX_RANGE_HI` and `TEX_RANGE_LO` (R44), stored once. -/
  texRange : BitVec 64
  /-- `TEX_DIM_L` bits 15..0, TWL (R45). -/
  twl : BitVec 16
  /-- `TEX_DIM_L` bits 31..16, THL (R45). -/
  thl : BitVec 16
deriving DecidableEq, Repr

/-- The buffers of 10_state.md R55 to R60. -/
structure Buffers where
  inp : Cells 8
  gray : Cells 8
  out0 : Cells 8
  out1 : Cells 8
  out2 : Cells 8
  out3 : Cells 8
  /-- Two's complement (R58). -/
  acc : Cells 16
  tex : Cells 64
  /-- `NOISE_BITS` bits (R60), at most 24 (00_scope.md R7): held in 24, of which every read and
  write takes the low `NOISE_BITS` (`texRawElement`, log 14). -/
  texRaw : Cells 24
deriving DecidableEq, Repr

/-- The hidden state of 10_state.md R62 and R63. -/
structure Sequencer where
  /-- `CUR_OP`. -/
  curOp : BitVec 4
  /-- `PHASE`. -/
  phase : Phase
  /-- The phase list position. -/
  pos : Nat
  /-- The model's own: whether the phase's start action has taken place (log 12). -/
  entered : Bool
  /-- The row of the scan position. -/
  sy : BitVec 16
  /-- The column of the scan position. -/
  sx : BitVec 16
  /-- `BMIN`, `BMAX`. -/
  bmin : BitVec 64
  bmax : BitVec 64
  /-- `SEEDL`. -/
  seedL : Word
deriving DecidableEq, Repr

/-- The model's own fields: what the agents outside the block do next, what the host has seen, and
the counters that number the free values (log 1, 2, 10). -/
structure Env where
  /-- What comes next, first to last. -/
  inputs : List Input
  /-- Whether the next input comes before the job that the current access starts has completed. -/
  overlap : Bool
  /-- The values host reads have returned, newest first. -/
  received : List Word
  /-- How many samples of TIME_IN have been taken. -/
  samples : Nat
  /-- How many writes the host has made: a read while BUSY keeps its free value until the next one
  (20_memory.md R89, log 6). -/
  writes : Nat
  /-- How many resets there have been. -/
  epoch : Nat
deriving DecidableEq, Repr

/-- The whole machine. -/
structure State where
  /-- The implementation parameters (00_scope.md R7); no step changes them. -/
  cfg : Config
  regs : Regs
  status : Status
  res : Results
  bufs : Buffers
  seq : Sequencer
  env : Env
deriving DecidableEq, Repr

/-- The reset values of the registers the host writes (10_state.md R32). -/
def Regs.reset : Regs where
  inFmt := false
  seedSrc := false
  irqEn := false
  width := 0
  height := 0
  texW := 64
  texH := 64
  krad := 3
  kw0 := 8870
  kw1 := 7102
  kw2 := 3646
  kw3 := 1200
  seed := 0
  bufSel := 0
  bufAddr := 0

/-- Every STATUS field is 0 after reset (10_state.md R70). -/
def Status.reset : Status where
  busy := false
  done := false
  err := false
  wrbusy := false
  errCode := 0
  texValid := false
  lastOp := 0

/-- The reset values of the engine's registers (10_state.md R32). -/
def Results.reset : Results where
  seedUsed := 0
  texRange := 0
  twl := 0
  thl := 0

/-- No buffer element has been written after reset: every element is unspecified (10_state.md R70,
log 7). -/
def Buffers.reset : Buffers where
  inp := []
  gray := []
  out0 := []
  out1 := []
  out2 := []
  out3 := []
  acc := []
  tex := []
  texRaw := []

/-- PHASE is IDLE after reset; the spec leaves the other fields unspecified and unused (10_state.md
R63, R70), and the model names 0 for them (DESIGN CHOICE, log 9). -/
def Sequencer.reset : Sequencer where
  curOp := 0
  phase := .idle
  pos := 0
  entered := false
  sy := 0
  sx := 0
  bmin := 0
  bmax := 0
  seedL := 0

/-- Nothing comes next, nothing has been read or drawn (the model's own fields, DESIGN CHOICE, log
1, 2, 10). -/
def Env.reset : Env where
  inputs := []
  overlap := false
  received := []
  samples := 0
  writes := 0
  epoch := 0

/-- The machine right after reset (10_state.md R70, 70_reset_and_hazards.md R340), with the default
parameters (log 3). -/
def State.reset : State where
  cfg := .default
  regs := .reset
  status := .reset
  res := .reset
  bufs := .reset
  seq := .reset
  env := .reset

/-- The reasons a step stops with a fault. -/
inductive Fault
  /-- Raised by a host access outside the 4 KiB window at `BASE`: the access is not this block's,
  and what the interconnect returns for it belongs to the platform (20_memory.md R93,
  93_implementation_defined.md U14). Safe: the model stops where the platform goes on (log 11). -/
  | outsideWindow
deriving DecidableEq, Repr

/-- The reasons a step is refused. -/
inductive Refusal
  /-- Raised by `exec` for an instruction that has no meaning yet; no instruction is left so. Safe:
  the model stops where the hardware goes on. -/
  | notModelled (mnemonic : String)
  /-- Raised by a host access of 8 or 16 bits, to which the block gives no meaning and which a
  model refuses (20_memory.md R81, 93_implementation_defined.md U3). Safe (log 11). -/
  | narrowAccess
  /-- Raised by a burst (R81, U3). Safe (log 11). -/
  | burstAccess
  /-- Raised by a 32-bit access with address bits 1..0 not zero (R81, U3). Safe (log 11). -/
  | misalignedAccess
deriving DecidableEq, Repr

end Sys2Proof.Machine
end

