-- ==== Sys2Proof/Machine/Ops.lean ====
section
/-! DEFINITION. The named operations over the buffers and the status: reading and writing an
element, rejecting a command (the only exception) and ending the error state. -/

namespace Sys2Proof.Machine

/-- What a buffer lists at an index, none where nothing has been written. -/
def cellGet? {w : Nat} : Cells w → Nat → Option (BitVec w)
  | [], _ => none
  | (j, v) :: rest, i => if i = j then some v else cellGet? rest i

/-- Writes an element, keeping the indices strictly rising. -/
def cellSet {w : Nat} : Cells w → Nat → BitVec w → Cells w
  | [], i, x => [(i, x)]
  | (j, v) :: rest, i, x =>
    if i = j then (i, x) :: rest
    else if i < j then (i, x) :: (j, v) :: rest
    else (j, v) :: cellSet rest i x

/-- The canonical form of one buffer: indices strictly rising. What an unlisted index reads as is
no listed value but the free value of `readCell`, so no entry repeats it (log 8). -/
abbrev CellsWf {w : Nat} (c : Cells w) : Prop :=
  (c.map Prod.fst).Pairwise (· < ·)

/-- Every buffer has the canonical form. -/
abbrev Memory.wf (b : Buffers) : Prop :=
  CellsWf b.inp ∧ CellsWf b.gray ∧ CellsWf b.out0 ∧ CellsWf b.out1 ∧ CellsWf b.out2 ∧
    CellsWf b.out3 ∧ CellsWf b.acc ∧ CellsWf b.tex ∧ CellsWf b.texRaw

/-- The element at an index: the written value, or the unspecified value of an element that
nothing has written since reset, which stays the same until it is written (10_state.md R70,
93_implementation_defined.md U1, log 7). -/
def readCell {w : Nat} (s : State) (b : BufId) (c : Cells w) (i : Nat) : BitVec w :=
  (cellGet? c i).getD ((Config.unwritten s.env.epoch b i).setWidth w)

/-- `BufRead(IN, i)` (00_scope.md R11). -/
def readIn (s : State) (i : Nat) : Byte :=
  readCell s .inp s.bufs.inp i

/-- `BufRead(GRAY, i)`. -/
def readGray (s : State) (i : Nat) : Byte :=
  readCell s .gray s.bufs.gray i

/-- `BufRead(OUT0, i)`. -/
def readOut0 (s : State) (i : Nat) : Byte :=
  readCell s .out0 s.bufs.out0 i

/-- `BufRead(OUT1, i)`. -/
def readOut1 (s : State) (i : Nat) : Byte :=
  readCell s .out1 s.bufs.out1 i

/-- `BufRead(OUT2, i)`. -/
def readOut2 (s : State) (i : Nat) : Byte :=
  readCell s .out2 s.bufs.out2 i

/-- `BufRead(OUT3, i)`. -/
def readOut3 (s : State) (i : Nat) : Byte :=
  readCell s .out3 s.bufs.out3 i

/-- `BufRead(ACC, i)`, the 16 bits as they stand. -/
def readAcc (s : State) (i : Nat) : BitVec 16 :=
  readCell s .acc s.bufs.acc i

/-- `BufRead(TEX, i)`. -/
def readTex (s : State) (i : Nat) : BitVec 64 :=
  readCell s .tex s.bufs.tex i

/-- A number as an element of TEXRAW: its low `NOISE_BITS` bits (10_state.md R60, log 14). -/
def texRawElement (c : Config) (k : Nat) : BitVec 24 :=
  BitVec.ofNat 24 (k % 2 ^ c.noiseBits)

/-- `BufRead(TEXRAW, i)`, an element of NOISE_BITS bits, written or not (10_state.md R60). -/
def readTexRaw (s : State) (i : Nat) : BitVec 24 :=
  texRawElement s.cfg (readCell s .texRaw s.bufs.texRaw i).toNat

/-- One element of any buffer, zero-extended to 64 bits: the read that frames are stated with. -/
def peek (s : State) (b : BufId) (i : Nat) : BitVec 64 :=
  match b with
  | .inp => (readIn s i).setWidth 64
  | .gray => (readGray s i).setWidth 64
  | .out0 => (readOut0 s i).setWidth 64
  | .out1 => (readOut1 s i).setWidth 64
  | .out2 => (readOut2 s i).setWidth 64
  | .out3 => (readOut3 s i).setWidth 64
  | .acc => (readAcc s i).setWidth 64
  | .tex => readTex s i
  | .texRaw => (readTexRaw s i).setWidth 64

/-- `BufWrite(IN, i, v)` (00_scope.md R11). -/
def writeIn (s : State) (i : Nat) (v : Byte) : State :=
  { s with bufs := { s.bufs with inp := cellSet s.bufs.inp i v } }

/-- `BufWrite(GRAY, i, v)`. -/
def writeGray (s : State) (i : Nat) (v : Byte) : State :=
  { s with bufs := { s.bufs with gray := cellSet s.bufs.gray i v } }

/-- `BufWrite(OUT0, i, v)`. -/
def writeOut0 (s : State) (i : Nat) (v : Byte) : State :=
  { s with bufs := { s.bufs with out0 := cellSet s.bufs.out0 i v } }

/-- `BufWrite(OUT1, i, v)`. -/
def writeOut1 (s : State) (i : Nat) (v : Byte) : State :=
  { s with bufs := { s.bufs with out1 := cellSet s.bufs.out1 i v } }

/-- `BufWrite(OUT2, i, v)`. -/
def writeOut2 (s : State) (i : Nat) (v : Byte) : State :=
  { s with bufs := { s.bufs with out2 := cellSet s.bufs.out2 i v } }

/-- `BufWrite(OUT3, i, v)`. -/
def writeOut3 (s : State) (i : Nat) (v : Byte) : State :=
  { s with bufs := { s.bufs with out3 := cellSet s.bufs.out3 i v } }

/-- `BufWrite(ACC, i, v)` of an integer, as 16-bit two's complement (10_state.md R58). -/
def writeAcc (s : State) (i : Nat) (v : Int) : State :=
  { s with bufs := { s.bufs with acc := cellSet s.bufs.acc i (BitVec.ofInt 16 v) } }

/-- `BufWrite(TEX, i, v)`. -/
def writeTex (s : State) (i : Nat) (v : BitVec 64) : State :=
  { s with bufs := { s.bufs with tex := cellSet s.bufs.tex i v } }

/-- `BufWrite(TEXRAW, i, k)`, an element of NOISE_BITS bits (10_state.md R60). -/
def writeTexRaw (s : State) (i k : Nat) : State :=
  { s with bufs := { s.bufs with texRaw := cellSet s.bufs.texRaw i (texRawElement s.cfg k) } }

/-- The error codes of 60_exceptions.md R301. -/
inductive ErrorCode
  | cmd
  | dim
  | texdim
  | krad
  | notex
deriving DecidableEq, Repr

/-- The number `STATUS.ERRCODE` shows (60_exceptions.md R301). -/
def ErrorCode.number : ErrorCode → BitVec 4
  | .cmd => 1#4
  | .dim => 2#4
  | .texdim => 3#4
  | .krad => 4#4
  | .notex => 5#4

/-- Taking the one exception, `reject(code)`: ERR and ERRCODE are written and nothing else changes
(60_exceptions.md R300). The latest rejection wins. -/
def reject (code : ErrorCode) (s : State) : State :=
  { s with status := { s.status with err := true, errCode := code.number } }

/-- Ending the error state: ERR is cleared and ERRCODE with it (60_exceptions.md R307, 10_state.md
R36). -/
def clearError (s : State) : State :=
  { s with status := { s.status with err := false, errCode := 0 } }

/-- A host write that is ignored because BUSY = 1: only WRBUSY is set (10_state.md R50). -/
def markWriteBusy (s : State) : State :=
  { s with status := { s.status with wrbusy := true } }

/-- Asserting reset (70_reset_and_hazards.md R340, R341): every piece of the block's state takes its
reset value, whether a job runs or not, and the buffers are unspecified anew (log 7). The parameters
stay, and so do the model's own fields (log 16). -/
def resetBlock (s : State) : State :=
  { State.reset with
    cfg := s.cfg
    env := { s.env with epoch := s.env.epoch + 1 } }

end Sys2Proof.Machine
end

