-- ==== Sys2Proof/Machine/Operands.lean ====
section
/-! DEFINITION. The operands of a command: it has no operand fields and reads the configuration
registers (30_encoding.md R122, R126). Buffer capacities and the checks at issue. -/

namespace Sys2Proof.Machine

/-- The image width W (10_state.md R37). -/
def imageW (s : State) : Nat :=
  s.regs.width.toNat

/-- The image height H (10_state.md R37). -/
def imageH (s : State) : Nat :=
  s.regs.height.toNat

/-- TWL, the latched width of the texture (10_state.md R45). -/
def texW (s : State) : Nat :=
  s.res.twl.toNat

/-- THL, the latched height of the texture (10_state.md R45). -/
def texH (s : State) : Nat :=
  s.res.thl.toNat

/-- The blur kernel radius r (10_state.md R40). -/
def kernelRadius (s : State) : Nat :=
  s.regs.krad.toNat

/-- The kernel weight w(d) at distance d from the centre, d = 0..3 (10_state.md R41). -/
def kernelWeight (s : State) (d : Nat) : Nat :=
  match d with
  | 0 => s.regs.kw0.toNat
  | 1 => s.regs.kw1.toNat
  | 2 => s.regs.kw2.toNat
  | 3 => s.regs.kw3.toNat
  | _ => 0

/-- The linear index p = y·W + x of a pixel (00_scope.md R13). -/
def pixelIndex (s : State) (y x : Nat) : Nat :=
  y * imageW s + x

/-- The linear index t = ty·TWL + tx of a texture cell (45_bluenoise_texture.md R230). -/
def cellIndex (s : State) (ty tx : Nat) : Nat :=
  ty * texW s + tx

/-- The capacity of a buffer in elements (20_memory.md R84, 10_state.md R60). -/
def capacity (c : Config) : BufId → Nat
  | .inp => 3 * c.maxW * c.maxH
  | .gray => c.maxW * c.maxH
  | .out0 => c.maxW * c.maxH
  | .out1 => c.maxW * c.maxH
  | .out2 => c.maxW * c.maxH
  | .out3 => c.maxW * c.maxH
  | .acc => c.maxW * c.maxH
  | .tex => c.texMaxW * c.texMaxH
  | .texRaw => c.texMaxW * c.texMaxH

/-- The range R = {TEX_RANGE_HI, TEX_RANGE_LO} (10_state.md R44). -/
def texRange (s : State) : Nat :=
  s.res.texRange.toNat

/-- `Draw(seed, i)`, an integer in [0, 2^NOISE_BITS) (43_random.md R185, R190). -/
def draw (c : Config) (seed : Word) (i : Nat) : Nat :=
  Config.noiseGen seed i % 2 ^ c.noiseBits

/-- Reseeding at the start of a stochastic phase (43_random.md R186): with SEED_SRC = 0 one sample of
TIME_IN, a free value of its own (log 5), else register SEED. -/
def reseed (s : State) : State :=
  if s.regs.seedSrc then
    { s with
      seq := { s.seq with seedL := s.regs.seed }
      res := { s.res with seedUsed := s.regs.seed } }
  else
    { s with
      seq := { s.seq with seedL := Config.timeIn s.env.samples }
      res := { s.res with seedUsed := Config.timeIn s.env.samples }
      env := { s.env with samples := s.env.samples + 1 } }

/-- The checks a command may run at issue (60_exceptions.md R302). -/
inductive Check
  | dim
  | texdim
  | krad
  | notex
deriving DecidableEq, Repr

/-- The code a failing check reports (60_exceptions.md R302). -/
def Check.code : Check → ErrorCode
  | .dim => .dim
  | .texdim => .texdim
  | .krad => .krad
  | .notex => .notex

/-- When a check fails (60_exceptions.md R302). -/
def Check.fails (s : State) : Check → Bool
  | .dim => decide (s.cfg.maxW < imageW s) || decide (s.cfg.maxH < imageH s)
  | .texdim =>
    decide (s.regs.texW.toNat < 1) || decide (s.cfg.texMaxW < s.regs.texW.toNat) ||
      decide (s.regs.texH.toNat < 1) || decide (s.cfg.texMaxH < s.regs.texH.toNat)
  | .krad => decide (s.cfg.kradMax < kernelRadius s)
  | .notex => !s.status.texValid

/-- The first failing check of a list, in the list's order (60_exceptions.md R303). -/
def firstFailing (s : State) : List Check → Option Check
  | [] => none
  | c :: rest => if c.fails s then some c else firstFailing s rest

end Sys2Proof.Machine
end

