-- ==== Sys2Proof/Machine/Bayer.lean ====
section
/-! DEFINITION. Phase BAYER and the threshold ROM (42_bayer.md). -/

namespace Sys2Proof.Machine

/-- The canonical pattern C[i][j] (42_bayer.md R176). -/
def bayerPattern (i j : Nat) : Nat :=
  ([[0, 8, 2, 10], [12, 4, 14, 6], [3, 11, 1, 9], [15, 7, 13, 5]].getD i []).getD j 0

/-- The value of parameter BAYER_M01 (00_scope.md R7). -/
def bayerM01Value : BayerM01 → Byte
  | .v127 => 127
  | .v128 => 128

/-- The threshold ROM M[i][j] = rntz(C[i][j] · 255 / 16), but M[0][1] = BAYER_M01 (42_bayer.md R175,
10_state.md R61). -/
def bayerRom (c : Config) (i j : Nat) : Byte :=
  if i = 0 ∧ j = 1 then bayerM01Value c.bayerM01
  else BitVec.ofInt 8 (rntz (bayerPattern i j * 255 : Nat) 16)

/-- The output sample of phase BAYER: an unsigned strict compare (42_bayer.md R177). -/
def bayerOut (c : Config) (g : Byte) (y x : Nat) : Byte :=
  if (bayerRom c (y % 4) (x % 4)).toNat < g.toNat then 255 else 0

/-- One element of phase BAYER (42_bayer.md R177). -/
def stepBayer (y x : Nat) (s : State) : State :=
  writeOut0 s (pixelIndex s y x) (bayerOut s.cfg (readGray s (pixelIndex s y x)) y x)

end Sys2Proof.Machine
end

