-- ==== Sys2Proof/Machine/BlueDither.lean ====
section
/-! DEFINITION. Phase BLUE_DITHER (46_bluenoise_dither.md). -/

namespace Sys2Proof.Machine

/-- The texture cell of pixel (y, x), by modulo tiling with the latched dimensions
(46_bluenoise_dither.md R260). -/
def tileIndex (s : State) (y x : Nat) : Nat :=
  cellIndex s (y % texH s) (x % texW s)

/-- The output sample of phase BLUE_DITHER for gray value g, range R and numerator D, in exact
arithmetic (46_bluenoise_dither.md R261). -/
def blueOut (g : Byte) (r d : Nat) : Byte :=
  if 255 * r < g.toNat * r + 255 * d then 255 else 0

/-- One element of phase BLUE_DITHER (46_bluenoise_dither.md R261). -/
def stepBlueDither (y x : Nat) (s : State) : State :=
  let p := pixelIndex s y x
  writeOut3 s p (blueOut (readGray s p) (texRange s) (readTex s (tileIndex s y x)).toNat)

end Sys2Proof.Machine
end

