-- ==== Sys2Proof/Machine/ErrorDiffusion.lean ====
section
/-! DEFINITION. Phases FS_INIT, FS_SCAN and FS_BORDER (44_error_diffusion.md). -/

namespace Sys2Proof.Machine

/-- The share of error e for weight w in sixteenths (44_error_diffusion.md R202). -/
def share (c : Config) (e : Int) (w : Nat) : Int :=
  match c.fsRound with
  | .rntz => signOf e * (((e.natAbs * w + 7) >>> 4 : Nat) : Int)
  | .trunc => signOf e * (((e.natAbs * w) >>> 4 : Nat) : Int)

/-- The threshold of an accumulated value (44_error_diffusion.md R203). -/
def threshold (c : Config) (v : Int) : Int :=
  match c.fsThresh with
  | .ge128 => if 128 ≤ v then 255 else 0
  | .gt128 => if 128 < v then 255 else 0

/-- Whether pixel (y, x) is in the visited set V of a w×h image (44_error_diffusion.md R200). -/
def visited (w h y x : Nat) : Bool :=
  decide (y + 2 ≤ h) && decide (1 ≤ x) && decide (x + 2 ≤ w)

/-- Whether pixel (y, x) of a w×h image is a border pixel: its row is H−1, or its column is 0 or W−1
(44_error_diffusion.md R205). A visited pixel is one that is none of these. -/
def isBorder (w h y x : Nat) : Bool :=
  decide (y + 1 = h) || decide (x = 0) || decide (x + 1 = w)

/-- An element of ACC as a signed integer (10_state.md R58). -/
def accValue (s : State) (p : Nat) : Int :=
  (readAcc s p).toInt

/-- One element of phase FS_INIT (44_error_diffusion.md R206). -/
def stepFsInit (y x : Nat) (s : State) : State :=
  let p := pixelIndex s y x
  writeOut2 (writeAcc s p (readGray s p).toNat) p (readGray s p)

/-- Adds a share to an element of ACC (44_error_diffusion.md R208). -/
def addAcc (s : State) (p : Nat) (d : Int) : State :=
  writeAcc s p (accValue s p + d)

/-- One visit of phase FS_SCAN (44_error_diffusion.md R201, R208): threshold the accumulated value,
write it back, and send the four shares of the error to the right, below-left, below and
below-right neighbours. -/
def stepFsScan (y x : Nat) (s : State) : State :=
  let p := pixelIndex s y x
  let v := accValue s p
  let q := threshold s.cfg v
  let e := v - q
  let s1 := writeOut2 (writeAcc s p q) p (BitVec.ofInt 8 q)
  let s2 := addAcc s1 (p + 1) (share s.cfg e 7)
  let s3 := addAcc s2 (p + imageW s - 1) (share s.cfg e 3)
  let s4 := addAcc s3 (p + imageW s) (share s.cfg e 5)
  addAcc s4 (p + imageW s + 1) (share s.cfg e 1)

/-- One element of phase FS_BORDER (44_error_diffusion.md R211). -/
def stepFsBorder (y x : Nat) (s : State) : State :=
  let p := pixelIndex s y x
  writeOut2 s p (BitVec.ofInt 8 (clamp (accValue s p) 0 255))

end Sys2Proof.Machine
end

