-- ==== Sys2Proof/Syntax.lean ====
section
/-! DEFINITION. The nine commands, one constructor for each row of spec/opcode_table.json. -/

namespace Sys2Proof

/-- The commands of 30_encoding.md R121. A command has no operand fields (R122): its operands are
the configuration registers as they stand when it is issued. -/
inductive Instr
  /-- No operation (47_dispatch.md R280). -/
  | nop
  /-- The Grayscale Converter alone (41_grayscale.md R173). -/
  | gray
  /-- Bayer ordered dithering (42_bayer.md R178). -/
  | bayer
  /-- Random dithering (43_random.md R192). -/
  | random
  /-- Floyd–Steinberg error diffusion (44_error_diffusion.md R215). -/
  | fs
  /-- Blue-noise dithering with a fresh texture (46_bluenoise_dither.md R262). -/
  | blue
  /-- Blue-noise texture generation alone (45_bluenoise_texture.md R238). -/
  | genTex
  /-- Blue-noise dithering with the stored texture (46_bluenoise_dither.md R263). -/
  | blueDither
  /-- All four methods on one input (47_dispatch.md R281). -/
  | all
deriving DecidableEq, Repr

end Sys2Proof
end

