-- ==== Sys2Proof/WellFormed.lean ====
section
/-! DEFINITION. What is well formed: an instruction, a command word, and a parameter record. -/

namespace Sys2Proof

/-- A command has no operand fields (30_encoding.md R122), so every command is well formed. -/
def Instr.wellFormed (_ : Instr) : Bool :=
  true

/-- Bits 31..4 of a command word must be zero (30_encoding.md R120). -/
def mbzZero (w : Word) : Bool :=
  w.extractLsb' 4 28 == 0#28

/-- The op codes 0x9 to 0xF are reserved (30_encoding.md R121). -/
def opDefined (w : Word) : Bool :=
  decide ((w.setWidth 4).toNat ≤ 8)

/-- A legal command word (30_encoding.md R123). -/
def wordWellFormed (w : Word) : Bool :=
  mbzZero w && opDefined w

/-- The image-size parameters have legal values (00_scope.md R7). -/
def Config.imageLimitsOk (c : Config) : Bool :=
  decide (1 ≤ c.maxW ∧ c.maxW ≤ 65535 ∧ 1 ≤ c.maxH ∧ c.maxH ≤ 65535 ∧
    3 * c.maxW * c.maxH ≤ 2 ^ 32)

/-- The texture parameters have legal values (00_scope.md R7). -/
def Config.texLimitsOk (c : Config) : Bool :=
  decide (1 ≤ c.texMaxW ∧ c.texMaxW ≤ 65535 ∧ 1 ≤ c.texMaxH ∧ c.texMaxH ≤ 65535 ∧ c.kradMax ≤ 3)

/-- `NOISE_BITS` has a legal value (00_scope.md R7). -/
def Config.noiseBitsOk (c : Config) : Bool :=
  decide (1 ≤ c.noiseBits ∧ c.noiseBits ≤ 24)

/-- `GRAY_WEIGHTS` are legal: cR + cG + cB = 2^shift and bias = 2^(shift−1) (00_scope.md R7). A
bias that is a whole number needs shift ≥ 1 (DEDUCED, log 17). -/
def Config.grayWeightsOk (c : Config) : Bool :=
  decide (1 ≤ c.shift ∧ c.cR + c.cG + c.cB = 2 ^ c.shift ∧ c.bias = 2 ^ (c.shift - 1))

/-- `BASE` is word-aligned: registers stand at `BASE + 4·n` and an access has address bits 1..0
zero (20_memory.md R80, R81; DEDUCED, log 17). -/
def Config.baseOk (c : Config) : Bool :=
  decide (c.base % 4 = 0)

/-- A parameter record whose every entry has a legal value (00_scope.md R7). -/
def Config.wf (c : Config) : Bool :=
  c.imageLimitsOk && c.texLimitsOk && c.noiseBitsOk && c.grayWeightsOk && c.baseOk

end Sys2Proof
end

