-- ==== Sys2Proof/Decode.lean ====
section
/-! DEFINITION. The decoder of 30_encoding.md R125, total on every word and every list of bytes,
and the encoder of R121. -/

namespace Sys2Proof

/-- Why a command word is illegal (30_encoding.md R123), or why bytes hold no command word. -/
inductive DecodeError
  /-- A bit of 31..4 is 1. -/
  | mbzNotZero
  /-- OP is in 0x9..0xF. -/
  | reservedOp
  /-- Fewer than the four bytes of a command word. -/
  | tooShort
deriving DecidableEq, Repr

/-- The op code of each command (30_encoding.md R121). -/
def opCode : Instr → BitVec 4
  | .nop => 0x0#4
  | .gray => 0x1#4
  | .bayer => 0x2#4
  | .random => 0x3#4
  | .fs => 0x4#4
  | .blue => 0x5#4
  | .genTex => 0x6#4
  | .blueDither => 0x7#4
  | .all => 0x8#4

/-- The command of an op code, none for the reserved codes (30_encoding.md R121). -/
def opOfCode (c : BitVec 4) : Option Instr :=
  match c.toNat with
  | 0x0 => some .nop
  | 0x1 => some .gray
  | 0x2 => some .bayer
  | 0x3 => some .random
  | 0x4 => some .fs
  | 0x5 => some .blue
  | 0x6 => some .genTex
  | 0x7 => some .blueDither
  | 0x8 => some .all
  | _ => none

/-- The decoding procedure of 30_encoding.md R125. -/
def decode (w : Word) : Except DecodeError Instr :=
  if mbzZero w then
    match opOfCode (w.setWidth 4) with
    | some i => .ok i
    | none => .error .reservedOp
  else .error .mbzNotZero

/-- The command word of a command: bits 31..4 zero, OP in bits 3..0 (30_encoding.md R120). -/
def encode (i : Instr) : Word :=
  0#28 ++ opCode i

/-- The four bytes of a word, the least significant at the lowest address (20_memory.md R82). -/
def wordBytes (w : Word) : List Byte :=
  [w.extractLsb' 0 8, w.extractLsb' 8 8, w.extractLsb' 16 8, w.extractLsb' 24 8]

/-- Reads a command from the bytes of the bus lanes, little-endian (20_memory.md R82), and returns
it with the bytes after it. -/
def decodeBytes : List Byte → Except DecodeError (Instr × List Byte)
  | b0 :: b1 :: b2 :: b3 :: rest =>
    match decode (b3 ++ b2 ++ b1 ++ b0) with
    | .ok i => .ok (i, rest)
    | .error e => .error e
  | _ => .error .tooShort

/-- The bytes of a command, little-endian (20_memory.md R82). -/
def encodeBytes (i : Instr) : List Byte :=
  wordBytes (encode i)

/-- The instruction the decoder reads from an instruction whose bits are `w`: the low `nbits` bits
of `w`, laid out as four little-endian bytes. A number that does not fit the one 32-bit format
(30_encoding.md R120) is no command. -/
def decodeTableWord (nbits w : Nat) : Option Instr :=
  let v := w % 2 ^ nbits
  if v < 2 ^ 32 then
    match decodeBytes (wordBytes (BitVec.ofNat 32 v)) with
    | .ok (i, _) => some i
    | .error _ => none
  else none

end Sys2Proof
end

