-- ==== Sys2Proof/Machine/Flags.lean ====
section
/-! DEFINITION. Every computation of the STATUS fields (10_state.md R36, R51) and the interrupt
line (R65). -/

namespace Sys2Proof.Machine

/-- The interrupt output, `irq = CTRL.IRQ_EN & (STATUS.DONE | STATUS.ERR)` (10_state.md R65,
60_exceptions.md R310). -/
def irq (s : State) : Bool :=
  s.regs.irqEn && (s.status.done || s.status.err)

/-- The STATUS word with a given TEX_VALID bit: bits 31..16 zero, LAST_OP, bits 11..9 zero,
TEX_VALID, ERRCODE, WRBUSY, ERR, DONE, BUSY (10_state.md R36). -/
def statusWord (st : Status) (texValid : Bool) : Word :=
  0#16 ++ st.lastOp ++ 0#3 ++ BitVec.ofBool texValid ++ st.errCode ++ BitVec.ofBool st.wrbusy ++
    BitVec.ofBool st.err ++ BitVec.ofBool st.done ++ BitVec.ofBool st.busy

/-- A host write to STATUS: each W1C bit whose written bit is 1 is cleared, ERRCODE with ERR; the
other bits stay (10_state.md R36). Allowed while BUSY (R50). -/
def writeStatus (v : Word) (s : State) : State :=
  let s1 :=
    if v.getLsbD 1 then { s with status := { s.status with done := false } } else s
  let s2 := if v.getLsbD 2 then clearError s1 else s1
  if v.getLsbD 3 then { s2 with status := { s2.status with wrbusy := false } } else s2

/-- The STATUS fields at acceptance: DONE, ERR and ERRCODE cleared, BUSY set (40_sequencer.md
R157). -/
def acceptStatus (st : Status) : Status :=
  { st with busy := true, done := false, err := false, errCode := 0 }

/-- The STATUS fields at completion: LAST_OP takes the op, BUSY falls, DONE rises, WRBUSY stays as
it is (40_sequencer.md R158). -/
def completeStatus (op : BitVec 4) (st : Status) : Status :=
  { st with lastOp := op, busy := false, done := true }

end Sys2Proof.Machine
end

