-- ==== Sys2Proof/Machine/Grayscale.lean ====
section
/-! DEFINITION. Phase GRAYCONV (41_grayscale.md). -/

namespace Sys2Proof.Machine

/-- The exact value of `gray3` before it is stored in 8 bits (41_grayscale.md R170). -/
def gray3Nat (c : Config) (e0 e1 e2 : Byte) : Nat :=
  let (r, g, b) :=
    match c.channelOrder with
    | .bgr => (e2.toNat, e1.toNat, e0.toNat)
    | .rgb => (e0.toNat, e1.toNat, e2.toNat)
  (c.cR * r + c.cG * g + c.cB * b + c.bias) >>> c.shift

/-- The luminance function `gray3` (41_grayscale.md R170). Its result lies in [0, 255] for legal
weights. -/
def gray3 (c : Config) (e0 e1 e2 : Byte) : Byte :=
  BitVec.ofNat 8 (gray3Nat c e0 e1 e2)

/-- The gray value of pixel p of the image in IN (41_grayscale.md R171, 20_memory.md R83). -/
def grayValue (s : State) (p : Nat) : Byte :=
  if s.regs.inFmt then readIn s p
  else gray3 s.cfg (readIn s (3 * p)) (readIn s (3 * p + 1)) (readIn s (3 * p + 2))

/-- One element of phase GRAYCONV (41_grayscale.md R171). -/
def stepGrayconv (y x : Nat) (s : State) : State :=
  writeGray s (pixelIndex s y x) (grayValue s (pixelIndex s y x))

end Sys2Proof.Machine
end

