-- ==== Sys2Proof/Machine/Random.lean ====
section
/-! DEFINITION. Phase RANDOM (43_random.md). -/

namespace Sys2Proof.Machine

/-- The output sample of phase RANDOM for gray value g, draw k and N bits per draw, in exact
arithmetic (43_random.md R191). -/
def randomOut (n : Nat) (g : Byte) (k : Nat) : Byte :=
  if 255 * 2 ^ n < g.toNat * 2 ^ n + 255 * k then 255 else 0

/-- One element of phase RANDOM: pixel p takes draw p of the latched seed (43_random.md R190,
R191). -/
def stepRandom (y x : Nat) (s : State) : State :=
  let p := pixelIndex s y x
  writeOut1 s p (randomOut s.cfg.noiseBits (readGray s p) (draw s.cfg s.seq.seedL p))

end Sys2Proof.Machine
end

