-- ==== Sys2Proof/Machine/Texture.lean ====
section
/-! DEFINITION. Phases TEX_FILL, TEX_BLUR and TEX_NORM (45_bluenoise_texture.md). -/

namespace Sys2Proof.Machine

/-- The start of phase TEX_FILL: the dimensions are latched, TEX_VALID falls, the noise source is
reseeded (45_bluenoise_texture.md R233). -/
def startTexFill (s : State) : State :=
  reseed
    { s with
      res := { s.res with twl := s.regs.texW, thl := s.regs.texH }
      status := { s.status with texValid := false } }

/-- One element of phase TEX_FILL: cell t takes draw t (45_bluenoise_texture.md R233). -/
def stepTexFill (ty tx : Nat) (s : State) : State :=
  let t := cellIndex s ty tx
  writeTexRaw s t (draw s.cfg s.seq.seedL t)

/-- The term of the blur sum for the kernel tap at offsets i − r and j − r, i and j in 0..2r
(45_bluenoise_texture.md R231, R232, R234). -/
def blurTerm (s : State) (ty tx i j : Nat) : Nat :=
  let r := kernelRadius s
  let di : Int := (i : Int) - r
  let dj : Int := (j : Int) - r
  kernelWeight s di.natAbs * kernelWeight s dj.natAbs *
    (readTexRaw s (reflIndex (ty + di) (texH s) * texW s + reflIndex (tx + dj) (texW s))).toNat

/-- The exact blurred value B(ty, tx) (45_bluenoise_texture.md R234). -/
def blurAt (s : State) (ty tx : Nat) : Nat :=
  ((List.range (2 * kernelRadius s + 1)).map fun i =>
    ((List.range (2 * kernelRadius s + 1)).map fun j => blurTerm s ty tx i j).sum).sum

/-- BMIN and BMAX after one more blurred value; the first cell sets both (45_bluenoise_texture.md
R235, log 13). -/
def noteExtremes (t : Nat) (b : BitVec 64) (s : State) : State :=
  if t = 0 then { s with seq := { s.seq with bmin := b, bmax := b } }
  else
    { s with
      seq :=
        { s.seq with
          bmin := if b.toNat < s.seq.bmin.toNat then b else s.seq.bmin
          bmax := if s.seq.bmax.toNat < b.toNat then b else s.seq.bmax } }

/-- One element of phase TEX_BLUR (45_bluenoise_texture.md R234, R235). -/
def stepTexBlur (ty tx : Nat) (s : State) : State :=
  let t := cellIndex s ty tx
  let b := BitVec.ofNat 64 (blurAt s ty tx)
  noteExtremes t b (writeTex s t b)

/-- The start of phase TEX_NORM: the range R = BMAX − BMIN (45_bluenoise_texture.md R236). -/
def startTexNorm (s : State) : State :=
  { s with res := { s.res with texRange := s.seq.bmax - s.seq.bmin } }

/-- One element of phase TEX_NORM (45_bluenoise_texture.md R236). -/
def stepTexNorm (ty tx : Nat) (s : State) : State :=
  let t := cellIndex s ty tx
  writeTex s t (readTex s t - s.seq.bmin)

/-- The end of phase TEX_NORM: the texture is complete (45_bluenoise_texture.md R236). -/
def finishTexNorm (s : State) : State :=
  { s with status := { s.status with texValid := true } }

end Sys2Proof.Machine
end

