-- ==== Sys2Proof/Machine/Sequencer.lean ====
section
/-! DEFINITION. The job sequencer (40_sequencer.md): phase lists, the scan, the engine's step, the
job function, acceptance and completion. The engine's steps and the job function share the phases'
start, element and end operations; 40_sequencer.md R159 says the two agree. -/

namespace Sys2Proof.Machine

/-- FS_BORDER stands in a phase list only when FS_BORDER = ACC_SAT (40_sequencer.md R151). -/
def borderPhases (c : Config) : List Phase :=
  match c.fsBorder with
  | .raw => []
  | .accSat => [.fsBorder]

/-- The phases of the texture generator (40_sequencer.md R151). -/
def texturePhases : List Phase :=
  [.texFill, .texBlur, .texNorm]

/-- The phases of each command, in order (40_sequencer.md R151). -/
def phaseList (c : Config) : Instr → List Phase
  | .nop => []
  | .gray => [.grayconv]
  | .bayer => [.grayconv, .bayer]
  | .random => [.grayconv, .random]
  | .fs => [.grayconv, .fsInit, .fsScan] ++ borderPhases c
  | .blue => texturePhases ++ [.grayconv, .blueDither]
  | .genTex => texturePhases
  | .blueDither => [.grayconv, .blueDither]
  | .all =>
    [.grayconv, .bayer, .random, .fsInit, .fsScan] ++ borderPhases c ++ texturePhases ++
      [.blueDither]

/-- The phase list of the running job (10_state.md R63: CUR_OP). -/
def currentPhases (s : State) : List Phase :=
  match opOfCode s.seq.curOp with
  | some i => phaseList s.cfg i
  | none => []

/-- What a phase does at its start, before its first element (43_random.md R186,
45_bluenoise_texture.md R233, R236). -/
def startPhase (ph : Phase) (s : State) : State :=
  match ph with
  | .idle => s
  | .grayconv => s
  | .bayer => s
  | .random => reseed s
  | .fsInit => s
  | .fsScan => s
  | .fsBorder => s
  | .texFill => startTexFill s
  | .texBlur => s
  | .texNorm => startTexNorm s
  | .blueDither => s

/-- What a phase does with the element at row y and column x (40_sequencer.md R150). -/
def stepElement (ph : Phase) (y x : Nat) (s : State) : State :=
  match ph with
  | .idle => s
  | .grayconv => stepGrayconv y x s
  | .bayer => stepBayer y x s
  | .random => stepRandom y x s
  | .fsInit => stepFsInit y x s
  | .fsScan => stepFsScan y x s
  | .fsBorder => stepFsBorder y x s
  | .texFill => stepTexFill y x s
  | .texBlur => stepTexBlur y x s
  | .texNorm => stepTexNorm y x s
  | .blueDither => stepBlueDither y x s

/-- What a phase does at its end, after its last element (45_bluenoise_texture.md R236). -/
def finishPhase (ph : Phase) (s : State) : State :=
  match ph with
  | .idle => s
  | .grayconv => s
  | .bayer => s
  | .random => s
  | .fsInit => s
  | .fsScan => s
  | .fsBorder => s
  | .texFill => s
  | .texBlur => s
  | .texNorm => finishTexNorm s
  | .blueDither => s

/-- The width of the grid a phase steps over: W, or TWL in a texture phase (40_sequencer.md
R152). -/
def gridW (ph : Phase) (s : State) : Nat :=
  match ph with
  | .idle => 0
  | .grayconv => imageW s
  | .bayer => imageW s
  | .random => imageW s
  | .fsInit => imageW s
  | .fsScan => imageW s
  | .fsBorder => imageW s
  | .texFill => texW s
  | .texBlur => texW s
  | .texNorm => texW s
  | .blueDither => imageW s

/-- The height of the grid a phase steps over: H, or THL in a texture phase (40_sequencer.md
R152). -/
def gridH (ph : Phase) (s : State) : Nat :=
  match ph with
  | .idle => 0
  | .grayconv => imageH s
  | .bayer => imageH s
  | .random => imageH s
  | .fsInit => imageH s
  | .fsScan => imageH s
  | .fsBorder => imageH s
  | .texFill => texH s
  | .texBlur => texH s
  | .texNorm => texH s
  | .blueDither => imageH s

/-! The job function (40_sequencer.md R160). -/

/-- The elements of a w×h grid in raster order (00_scope.md R13). -/
def rasterList (w h : Nat) : List (Nat × Nat) :=
  (List.range h).flatMap fun y => (List.range w).map fun x => (y, x)

/-- The visited set V in raster order: y = 0 .. H−2 outer and x = 1 .. W−2 inner
(44_error_diffusion.md R200, R207). -/
def visitList (w h : Nat) : List (Nat × Nat) :=
  (List.range (h - 1)).flatMap fun y => (List.range (w - 2)).map fun x => (y, x + 1)

/-- The border pixels in raster order (44_error_diffusion.md R205, R211). For W < 3 or H < 2 every
pixel is one. -/
def borderList (w h : Nat) : List (Nat × Nat) :=
  (rasterList w h).filter fun p => isBorder w h p.1 p.2

/-- The elements a phase steps over, in order (40_sequencer.md R150, R152). -/
def phaseElements (ph : Phase) (s : State) : List (Nat × Nat) :=
  match ph with
  | .fsScan => visitList (imageW s) (imageH s)
  | .fsBorder => borderList (imageW s) (imageH s)
  | _ => rasterList (gridW ph s) (gridH ph s)

/-- A phase's element operation over a list of elements, first to last. -/
def runElements (ph : Phase) (l : List (Nat × Nat)) (s : State) : State :=
  l.foldl (fun t p => stepElement ph p.1 p.2 t) s

/-- The phase function `Pi`: the state after stepping over all the phase's elements in raster order
(40_sequencer.md R160). -/
def runPhase (ph : Phase) (s : State) : State :=
  let s1 := startPhase ph s
  finishPhase ph (runElements ph (phaseElements ph s1) s1)

/-- The job function `Job(op, s, seeds) = Pn( ... P2( P1(s) ) ... )` (40_sequencer.md R160). -/
def runPhases (l : List Phase) (s : State) : State :=
  l.foldl (fun t ph => runPhase ph t) s

/-! Acceptance and completion (40_sequencer.md R157, R158). -/

/-- The column of a phase's first element: 1 in FS_SCAN, whose rows begin at x = 1
(44_error_diffusion.md R207), else 0. The row is 0. A phase with no elements has no first element
for 40_sequencer.md R152 to name: there too the position is (0, 1) in FS_SCAN and (0, 0) elsewhere
(DESIGN CHOICE, log 21). -/
def firstColumn (ph : Phase) : BitVec 16 :=
  match ph with
  | .fsScan => 1
  | _ => 0

/-- Points the sequencer at a phase of the list, at its first element (40_sequencer.md R152), and in a
phase with no elements where log 21 says (DESIGN CHOICE). -/
def pointAtPhase (ph : Phase) (pos : Nat) (s : State) : State :=
  { s with
    seq :=
      { s.seq with phase := ph, pos := pos, entered := false, sy := 0, sx := firstColumn ph } }

/-- Acceptance of a command (40_sequencer.md R157). -/
def accept (i : Instr) (s : State) : State :=
  pointAtPhase ((phaseList s.cfg i).headD .idle) 0
    { s with
      status := acceptStatus s.status
      seq := { s.seq with curOp := opCode i } }

/-- Completion of the running job, all at one instant (40_sequencer.md R158). -/
def complete (s : State) : State :=
  { s with
    status := completeStatus s.seq.curOp s.status
    seq := { s.seq with phase := .idle } }

/-! The engine's steps (40_sequencer.md R152, R153). -/

/-- Raster advance on a wd-wide grid (40_sequencer.md R152). -/
def rasterNext (wd y x : Nat) : Nat × Nat :=
  if x + 1 < wd then (y, x + 1) else (y + 1, 0)

/-- The element after (y, x) in a phase. FS_SCAN and FS_BORDER step only over their subsets, in the
same raster order (40_sequencer.md R152, 44_error_diffusion.md R207, R211): a row of FS_SCAN holds
columns 1 to W−2; a row of FS_BORDER before the last holds columns 0 and W−1. After the last visited
pixel (H−2, W−2) of FS_SCAN there is no next element for R152 to name, and its SY = Hd is stated of
the whole grid: there the position is (H−1, 1) (DESIGN CHOICE, log 22). -/
def nextElement (ph : Phase) (s : State) (y x : Nat) : Nat × Nat :=
  match ph with
  | .fsScan => if x + 2 < imageW s then (y, x + 1) else (y + 1, 1)
  | .fsBorder =>
    if x = 0 ∧ 3 ≤ imageW s ∧ y + 1 < imageH s then (y, imageW s - 1)
    else rasterNext (imageW s) y x
  | _ => rasterNext (gridW ph s) y x

/-- Whether no element of the phase is left at scan row y: an empty grid, or the rows are used up
(40_sequencer.md R152, R153; 44_error_diffusion.md R200). The rows of FS_SCAN are used up at
SY = H−1, not at R152's SY = Hd (DESIGN CHOICE, log 22). -/
def scanEnded (ph : Phase) (s : State) (y : Nat) : Bool :=
  match ph with
  | .fsScan => decide (imageW s < 3) || decide (imageH s ≤ y + 1)
  | _ => decide (gridW ph s = 0) || decide (gridH ph s ≤ y)

/-- Entering the current phase: its start action (log 12). -/
def enterPhase (s : State) : State :=
  let s1 := startPhase s.seq.phase s
  { s1 with seq := { s1.seq with entered := true } }

/-- Processing the element at the scan position and advancing (40_sequencer.md R153). -/
def processElement (s : State) : State :=
  let y := s.seq.sy.toNat
  let x := s.seq.sx.toNat
  let n := nextElement s.seq.phase s y x
  let s1 := stepElement s.seq.phase y x s
  { s1 with seq := { s1.seq with sy := BitVec.ofNat 16 n.1, sx := BitVec.ofNat 16 n.2 } }

/-- Leaving the current phase: its end action, then the next phase of the list, or completion after
the last (40_sequencer.md R153, R158). -/
def leavePhase (s : State) : State :=
  let s1 := finishPhase s.seq.phase s
  match (currentPhases s)[s.seq.pos + 1]? with
  | some ph => pointAtPhase ph (s.seq.pos + 1) s1
  | none => complete s1

/-- One step of the engine (40_sequencer.md R153). It does nothing when no job runs
(60_exceptions.md R314). Entering and leaving a phase are steps of their own (log 12). -/
def engineStep (s : State) : State :=
  if s.status.busy then
    if s.seq.entered then
      if scanEnded s.seq.phase s s.seq.sy.toNat then leavePhase s else processElement s
    else enterPhase s
  else s

/-- `n` steps of the engine. -/
def engineRun : Nat → State → State
  | 0, s => s
  | n + 1, s => engineRun n (engineStep s)

/-- Issuing a job command (40_sequencer.md R157): ignored while BUSY but for WRBUSY (10_state.md
R50); rejected with the code of its first failing check (60_exceptions.md R303); else accepted. A job
may take any finite time (70_reset_and_hazards.md R352): where the next input comes before its
completion it is left running, and the engine's steps carry it on; else it runs to completion here,
as the two transitions Accept and Complete of R159 with nothing between them (log 2). -/
def issueJob (i : Instr) (checks : List Check) (s : State) : Host.Outcome State Fault Refusal :=
  if s.status.busy then .next (markWriteBusy s)
  else
    match firstFailing s checks with
    | some c => .next (reject c.code s)
    | none =>
      if s.env.overlap then .next (accept i s)
      else .next (complete (runPhases (phaseList s.cfg i) (accept i s)))

end Sys2Proof.Machine
end

