-- ==== Sys2Proof/Machine/Commands.lean ====
section
/-! DEFINITION. The meaning of each of the nine commands: its checks and its job. The phases of each
stand in `phaseList` (40_sequencer.md R151). -/

namespace Sys2Proof.Machine

/-- NOP (47_dispatch.md R280, 30_encoding.md R124): no check and no change; while BUSY it sets WRBUSY
as every CMD write does. -/
def execNop (s : State) : Host.Outcome State Fault Refusal :=
  if s.status.busy then .next (markWriteBusy s) else .next s

/-- GRAY (41_grayscale.md R173): check DIM; phase GRAYCONV. -/
def execGray (s : State) : Host.Outcome State Fault Refusal :=
  issueJob .gray [.dim] s

/-- BAYER (42_bayer.md R178): check DIM; phases GRAYCONV, BAYER. -/
def execBayer (s : State) : Host.Outcome State Fault Refusal :=
  issueJob .bayer [.dim] s

/-- RANDOM (43_random.md R192): check DIM; phases GRAYCONV, RANDOM with its reseed. -/
def execRandom (s : State) : Host.Outcome State Fault Refusal :=
  issueJob .random [.dim] s

/-- FS (44_error_diffusion.md R215): check DIM; phases GRAYCONV, FS_INIT, FS_SCAN, and FS_BORDER if
present. -/
def execFs (s : State) : Host.Outcome State Fault Refusal :=
  issueJob .fs [.dim] s

/-- BLUE (46_bluenoise_dither.md R262): checks DIM, TEXDIM, KRAD; phases TEX_FILL, TEX_BLUR, TEX_NORM,
GRAYCONV, BLUE_DITHER. -/
def execBlue (s : State) : Host.Outcome State Fault Refusal :=
  issueJob .blue [.dim, .texdim, .krad] s

/-- GEN_TEX (45_bluenoise_texture.md R238): checks TEXDIM, KRAD; phases TEX_FILL, TEX_BLUR,
TEX_NORM. -/
def execGenTex (s : State) : Host.Outcome State Fault Refusal :=
  issueJob .genTex [.texdim, .krad] s

/-- BLUE_DITHER (46_bluenoise_dither.md R263): checks DIM, NOTEX; phases GRAYCONV, BLUE_DITHER. -/
def execBlueDither (s : State) : Host.Outcome State Fault Refusal :=
  issueJob .blueDither [.dim, .notex] s

/-- ALL (47_dispatch.md R281): checks DIM, TEXDIM, KRAD; the phases of the four methods. -/
def execAll (s : State) : Host.Outcome State Fault Refusal :=
  issueJob .all [.dim, .texdim, .krad] s

end Sys2Proof.Machine
end

