-- ==== Sys2Proof/Machine/Dispatch.lean ====
section
/-! DEFINITION. One arm for each command. -/

namespace Sys2Proof.Machine

def exec (i : Instr) (s : State) : Host.Outcome State Fault Refusal :=
  match i with
  | .nop => Sys2Proof.Machine.execNop s
  | .gray => Sys2Proof.Machine.execGray s
  | .bayer => Sys2Proof.Machine.execBayer s
  | .random => Sys2Proof.Machine.execRandom s
  | .fs => Sys2Proof.Machine.execFs s
  | .blue => Sys2Proof.Machine.execBlue s
  | .genTex => Sys2Proof.Machine.execGenTex s
  | .blueDither => Sys2Proof.Machine.execBlueDither s
  | .all => Sys2Proof.Machine.execAll s

end Sys2Proof.Machine
end

