-- ==== Sys2Proof/Machine/Registers.lean ====
section
/-! DEFINITION. The register map, the buffer port, and what a host read or write of each register
but CMD does (10_state.md R32 to R50, 20_memory.md R85 to R91). -/

namespace Sys2Proof.Machine

/-- The registers of 10_state.md R32. -/
inductive Reg
  | id
  | ctrl
  | cmd
  | status
  | width
  | height
  | texW
  | texH
  | krad
  | kw0
  | kw1
  | kw2
  | kw3
  | seed
  | seedUsed
  | texRangeLo
  | texRangeHi
  | texDimL
  | bufSel
  | bufAddr
  | bufData
  /-- Any of the reserved offsets 0x054 to 0xFFC (R49). -/
  | reserved
deriving DecidableEq, Repr

/-- The register at a word-aligned offset of the window (10_state.md R32). -/
def regAt (offset : Nat) : Reg :=
  match offset with
  | 0x000 => .id
  | 0x004 => .ctrl
  | 0x008 => .cmd
  | 0x00C => .status
  | 0x010 => .width
  | 0x014 => .height
  | 0x018 => .texW
  | 0x01C => .texH
  | 0x020 => .krad
  | 0x024 => .kw0
  | 0x028 => .kw1
  | 0x02C => .kw2
  | 0x030 => .kw3
  | 0x034 => .seed
  | 0x038 => .seedUsed
  | 0x03C => .texRangeLo
  | 0x040 => .texRangeHi
  | 0x044 => .texDimL
  | 0x048 => .bufSel
  | 0x04C => .bufAddr
  | 0x050 => .bufData
  | _ => .reserved

/-- The offset of a register (10_state.md R32); for `reserved`, the first reserved offset. -/
def regOffset : Reg → Nat
  | .id => 0x000
  | .ctrl => 0x004
  | .cmd => 0x008
  | .status => 0x00C
  | .width => 0x010
  | .height => 0x014
  | .texW => 0x018
  | .texH => 0x01C
  | .krad => 0x020
  | .kw0 => 0x024
  | .kw1 => 0x028
  | .kw2 => 0x02C
  | .kw3 => 0x030
  | .seed => 0x034
  | .seedUsed => 0x038
  | .texRangeLo => 0x03C
  | .texRangeHi => 0x040
  | .texDimL => 0x044
  | .bufSel => 0x048
  | .bufAddr => 0x04C
  | .bufData => 0x050
  | .reserved => 0x054

/-- The constant of register ID, "DITH" in ASCII (10_state.md R33). -/
def idValue : Word :=
  0x44495448#32

/-- The CTRL word: IN_FMT, SEED_SRC and IRQ_EN in bits 0 to 2, the rest 0 (10_state.md R34). -/
def ctrlWord (r : Regs) : Word :=
  0#29 ++ BitVec.ofBool r.irqEn ++ BitVec.ofBool r.seedSrc ++ BitVec.ofBool r.inFmt

/-- BUF_ADDR advances by one, modulo 2^32 (20_memory.md R87). -/
def advanceBufAddr (s : State) : State :=
  { s with regs := { s.regs with bufAddr := s.regs.bufAddr + 1 } }

/-- An 8-bit element at index a, zero-extended, or 0 beyond the buffer's capacity (20_memory.md
R85). -/
def portByte (s : State) (b : BufId) (v : Byte) : Word :=
  if s.regs.bufAddr.toNat < capacity s.cfg b then v.setWidth 32 else 0

/-- What a read of BUF_DATA returns while BUSY = 0 (20_memory.md R85). -/
def portValue (s : State) : Word :=
  let a := s.regs.bufAddr.toNat
  match s.regs.bufSel.toNat with
  | 0 => portByte s .inp (readIn s a)
  | 1 => portByte s .gray (readGray s a)
  | 2 => portByte s .out0 (readOut0 s a)
  | 3 => portByte s .out1 (readOut1 s a)
  | 4 => portByte s .out2 (readOut2 s a)
  | 5 => portByte s .out3 (readOut3 s a)
  | 6 =>
    let e := a >>> 1
    if e < capacity s.cfg .tex then
      if a % 2 = 0 then (readTex s e).extractLsb' 0 32 else (readTex s e).extractLsb' 32 32
    else 0
  | _ => if a < capacity s.cfg .acc then (readAcc s a).signExtend 32 else 0

/-- A write of BUF_DATA while BUSY = 0: only IN is written, within its capacity; BUF_ADDR advances
in any case (20_memory.md R86). -/
def portWrite (v : Word) (s : State) : State :=
  let a := s.regs.bufAddr.toNat
  if s.regs.bufSel.toNat = 0 ∧ a < capacity s.cfg .inp then
    advanceBufAddr (writeIn s a (v.setWidth 8))
  else advanceBufAddr s

/-- What a read, while BUSY, of state the job changes returns: a free value for each register, which
stays until the host's next write (20_memory.md R88, R89, R91; log 6). -/
def busyValue (r : Reg) (s : State) : Word :=
  Config.busyRead (regOffset r) s.env.writes

/-- A read that returns a value as it stands while BUSY = 0, and a free value while BUSY = 1
(20_memory.md R91). -/
def readUnlessBusy (r : Reg) (s : State) (v : Word) : Word :=
  if s.status.busy then busyValue r s else v

/-- What a host read of a register returns, and the state after it (10_state.md R32 to R49,
20_memory.md R85, R88, R91). While BUSY, the TEX_VALID bit of STATUS is a free value. -/
def readReg (r : Reg) (s : State) : Word × State :=
  match r with
  | .id => (idValue, s)
  | .ctrl => (ctrlWord s.regs, s)
  | .cmd => (0, s)
  | .status =>
    (statusWord s.status
      (if s.status.busy then (busyValue .status s).getLsbD 0 else s.status.texValid), s)
  | .width => (s.regs.width.setWidth 32, s)
  | .height => (s.regs.height.setWidth 32, s)
  | .texW => (s.regs.texW.setWidth 32, s)
  | .texH => (s.regs.texH.setWidth 32, s)
  | .krad => (s.regs.krad.setWidth 32, s)
  | .kw0 => (s.regs.kw0.setWidth 32, s)
  | .kw1 => (s.regs.kw1.setWidth 32, s)
  | .kw2 => (s.regs.kw2.setWidth 32, s)
  | .kw3 => (s.regs.kw3.setWidth 32, s)
  | .seed => (s.regs.seed, s)
  | .seedUsed => (readUnlessBusy .seedUsed s s.res.seedUsed, s)
  | .texRangeLo => (readUnlessBusy .texRangeLo s (s.res.texRange.extractLsb' 0 32), s)
  | .texRangeHi => (readUnlessBusy .texRangeHi s (s.res.texRange.extractLsb' 32 32), s)
  | .texDimL => (readUnlessBusy .texDimL s (s.res.thl ++ s.res.twl), s)
  | .bufSel => (s.regs.bufSel.setWidth 32, s)
  | .bufAddr => (s.regs.bufAddr, s)
  | .bufData =>
    (readUnlessBusy .bufData s (portValue s), if s.status.busy then s else advanceBufAddr s)
  | .reserved => (0, s)

/-- A host read: the value returned is the newest the host has received (30_encoding.md R127). -/
def hostRead (r : Reg) (s : State) : State :=
  let (v, s1) := readReg r s
  { s1 with env := { s1.env with received := v :: s1.env.received } }

/-- A host write, while BUSY = 0, of a register that holds configuration: the defined bits are
stored, the reserved bits are ignored (10_state.md R34, R37 to R42, R46, R47). -/
def setConfig (r : Reg) (v : Word) (s : State) : State :=
  match r with
  | .ctrl =>
    { s with
      regs :=
        { s.regs with
          inFmt := v.getLsbD 0, seedSrc := v.getLsbD 1, irqEn := v.getLsbD 2 } }
  | .width => { s with regs := { s.regs with width := v.setWidth 16 } }
  | .height => { s with regs := { s.regs with height := v.setWidth 16 } }
  | .texW => { s with regs := { s.regs with texW := v.setWidth 16 } }
  | .texH => { s with regs := { s.regs with texH := v.setWidth 16 } }
  | .krad => { s with regs := { s.regs with krad := v.setWidth 2 } }
  | .kw0 => { s with regs := { s.regs with kw0 := v.setWidth 16 } }
  | .kw1 => { s with regs := { s.regs with kw1 := v.setWidth 16 } }
  | .kw2 => { s with regs := { s.regs with kw2 := v.setWidth 16 } }
  | .kw3 => { s with regs := { s.regs with kw3 := v.setWidth 16 } }
  | .seed => { s with regs := { s.regs with seed := v } }
  | .bufSel => { s with regs := { s.regs with bufSel := v.setWidth 3 } }
  | .bufAddr => { s with regs := { s.regs with bufAddr := v } }
  | _ => s

/-- Whether a write of the register, while BUSY, is lost and sets WRBUSY (10_state.md R50). -/
def guardedWhileBusy : Reg → Bool
  | .ctrl => true
  | .cmd => true
  | .width => true
  | .height => true
  | .texW => true
  | .texH => true
  | .krad => true
  | .kw0 => true
  | .kw1 => true
  | .kw2 => true
  | .kw3 => true
  | .seed => true
  | .bufSel => true
  | .bufAddr => true
  | .bufData => true
  | .id => false
  | .status => false
  | .seedUsed => false
  | .texRangeLo => false
  | .texRangeHi => false
  | .texDimL => false
  | .reserved => false

end Sys2Proof.Machine
end

