-- ==== Sys2Proof/Machine/Access.lean ====
section
/-! DEFINITION. The host's accesses: fetching the next input, locating the register a bus access
reaches, issuing a command word, and what each access does. -/

namespace Sys2Proof.Machine

/-- Issuing a command word (40_sequencer.md R157, 30_encoding.md R123): while BUSY it is not decoded
and sets WRBUSY (10_state.md R50); an illegal word is rejected with ERR_CMD; a legal one is
executed. -/
def issueWord (w : Word) (s : State) : Host.Outcome State Fault Refusal :=
  if s.status.busy then .next (markWriteBusy s)
  else
    match decode w with
    | .error _ => .next (reject .cmd s)
    | .ok i => exec i s

/-- A host write of a register. STATUS is written at any time (10_state.md R36); a write to a
read-only or reserved offset is ignored (R33, R49); while BUSY every other write is ignored but for
WRBUSY (R50). -/
def hostWrite (r : Reg) (v : Word) (s : State) : Host.Outcome State Fault Refusal :=
  if guardedWhileBusy r && s.status.busy then .next (markWriteBusy s)
  else
    match r with
    | .cmd => issueWord v s
    | .status => .next (writeStatus v s)
    | .bufData => .next (portWrite v s)
    | _ => .next (setConfig r v s)

/-- A host access of the register window. Outside the window it is not this block's (20_memory.md
R93); inside, only aligned 32-bit accesses have a meaning (R81; log 11). -/
def hostAccess (a : BusAccess) (s : State) : Host.Outcome State Fault Refusal :=
  if a.addr < s.cfg.base ∨ s.cfg.base + 4096 ≤ a.addr then .fault .outsideWindow
  else
    match a.size with
    | .byte => .refused .narrowAccess
    | .half => .refused .narrowAccess
    | .burst => .refused .burstAccess
    | .word =>
      if a.addr % 4 = 0 then
        match a.op with
        | .read => .next (hostRead (regAt (a.addr - s.cfg.base)) s)
        | .write v => hostWrite (regAt (a.addr - s.cfg.base)) v s
      else .refused .misalignedAccess

/-- The state as an access of the host finds it: the access's choice of timing, and the count of the
host's writes, which a write makes one more (the model's own fields, log 2, 6). -/
def beginAccess (op : BusOp) (overlap : Bool) (s : State) : State :=
  match op with
  | .read => { s with env := { s.env with overlap := overlap } }
  | .write _ => { s with env := { s.env with overlap := overlap, writes := s.env.writes + 1 } }

/-- What one input does (10_state.md R30, 60_exceptions.md R311). -/
def takeInput (i : Input) (s : State) : Host.Outcome State Fault Refusal :=
  match i with
  | .host a overlap => hostAccess a (beginAccess a.op overlap s)
  | .engine => .next (engineStep s)
  | .reset => .next (resetBlock s)

/-- One step: the next input; with none left, the engine goes on (log 15). -/
def stepOnce (s : State) : Host.Outcome State Fault Refusal :=
  match s.env.inputs with
  | [] => .next (engineStep s)
  | i :: rest => takeInput i { s with env := { s.env with inputs := rest } }

/-- The host's write of a command word to register CMD. -/
def commandWrite (c : Config) (w : Word) : BusAccess where
  op := .write w
  addr := c.base + regOffset .cmd
  size := .word

/-- `s` with the write of the command word `w` to CMD as its next input. The job the command starts
completes before the input after it. -/
def placeCommand (w : Word) (s : State) : State :=
  { s with env := { s.env with inputs := .host (commandWrite s.cfg w) false :: s.env.inputs } }

end Sys2Proof.Machine
end

