-- ==== Sys2Proof/Machine/Step.lean ====
section
/-! DEFINITION. One step of the machine, and the state in which the next step runs a given command
word. -/

namespace Sys2Proof.Machine

/-- One step: what the next input does (log 1). -/
def step (s : State) : Host.Outcome State Fault Refusal :=
  stepOnce s

/-- `s` with the command whose bits are the low `nbits` bits of `w` as the host's next access, a
write of register CMD: the block fetches no instructions, and a command acts at the moment of that
write (20_memory.md R97; log 1). -/
def State.withFetchWord (s : State) (nbits w : Nat) : State :=
  placeCommand (BitVec.ofNat 32 (w % 2 ^ nbits)) s

end Sys2Proof.Machine
end

