-- ==== Sys2Proof/Machine/Program.lean ====
section
/-! DEFINITION. The host-program notation of 30_encoding.md R127 and R128: lines, their encoding as
bus transactions, and the pseudo-instructions as lists of lines. -/

namespace Sys2Proof.Machine

/-- A base form (30_encoding.md R127). -/
inductive Line
  | wr (r : Reg) (v : Word)
  | rd (r : Reg)
deriving DecidableEq, Repr

/-- The encoding of a line as direction, offset and data (30_encoding.md R127). -/
def lineTriple : Line → BusOp × Nat
  | .wr r v => (.write v, regOffset r)
  | .rd r => (.read, regOffset r)

/-- A line as the host's next access of the block at `BASE`. -/
def lineInput (c : Config) (overlap : Bool) (l : Line) : Input :=
  .host
    { op := (lineTriple l).1
      addr := c.base + (lineTriple l).2
      size := .word }
    overlap

/-- `CMD <mnemonic>` (30_encoding.md R128). -/
def cmdLines (i : Instr) : List Line :=
  [.wr .cmd ((opCode i).setWidth 32)]

/-- `WAIT`, for a run of the loop that takes `n` reads (30_encoding.md R128). -/
def waitLines (n : Nat) : List Line :=
  List.replicate n (.rd .status)

/-- `RUN <mnemonic>`, for a WAIT of `n` reads (30_encoding.md R128). -/
def runLines (i : Instr) (n : Nat) : List Line :=
  cmdLines i ++ waitLines n

/-- `CLRST` (30_encoding.md R128). -/
def clrstLines : List Line :=
  [.wr .status 0x0000000E#32]

/-- `LOADIN a, v0, ..., vn` (30_encoding.md R128). -/
def loadInLines (a : Word) (vs : List Word) : List Line :=
  .wr .bufSel 0 :: .wr .bufAddr a :: vs.map fun v => .wr .bufData v

/-- The BUF_SEL value of a buffer the port reaches, none for TEXRAW (10_state.md R46, R60). -/
def portSelect : BufId → Option Word
  | .inp => some 0
  | .gray => some 1
  | .out0 => some 2
  | .out1 => some 3
  | .out2 => some 4
  | .out3 => some 5
  | .tex => some 6
  | .acc => some 7
  | .texRaw => none

/-- `DUMP buf, a, n`, given the BUF_SEL value of the buffer (30_encoding.md R128). -/
def dumpLines (sel a : Word) (n : Nat) : List Line :=
  .wr .bufSel sel :: .wr .bufAddr a :: List.replicate n (.rd .bufData)

/-- `s` with the lines of a host program as its inputs, each job completing before the line after
it. -/
def loadProgram (ls : List Line) (s : State) : State :=
  { s with env := { s.env with inputs := ls.map (lineInput s.cfg false) } }

end Sys2Proof.Machine
end

