-- ==== Sys2Proof/Safety.lean ====
section
/-! DEFINITION. What a safe state of the machine is, and the terms in which the statements about the
machine are written: when a command passes its checks, what it leaves in STATUS and in the
sequencer, and the reference forms of the blur and of error diffusion. -/

namespace Sys2Proof.Machine

/-! The checks, restated from 60_exceptions.md R302 and R303. -/

/-- Check DIM passes. -/
abbrev imageFits (s : State) : Prop :=
  imageW s ≤ s.cfg.maxW ∧ imageH s ≤ s.cfg.maxH

/-- Check TEXDIM passes. -/
abbrev textureFits (s : State) : Prop :=
  1 ≤ s.regs.texW.toNat ∧ s.regs.texW.toNat ≤ s.cfg.texMaxW ∧
    1 ≤ s.regs.texH.toNat ∧ s.regs.texH.toNat ≤ s.cfg.texMaxH

/-- Check KRAD passes. -/
abbrev kernelFits (s : State) : Prop :=
  kernelRadius s ≤ s.cfg.kradMax

/-- Every check of the command passes (60_exceptions.md R302). -/
abbrev checksPass (i : Instr) (s : State) : Prop :=
  match i with
  | .nop => True
  | .gray => imageFits s
  | .bayer => imageFits s
  | .random => imageFits s
  | .fs => imageFits s
  | .blue => imageFits s ∧ textureFits s ∧ kernelFits s
  | .genTex => textureFits s ∧ kernelFits s
  | .blueDither => imageFits s ∧ s.status.texValid = true
  | .all => imageFits s ∧ textureFits s ∧ kernelFits s

/-- The code with which the command is rejected, none where every check passes (60_exceptions.md
R301 to R303). -/
def rejectionCode (i : Instr) (s : State) : Option (BitVec 4) :=
  match i with
  | .nop => none
  | .gray => if imageFits s then none else some 2#4
  | .bayer => if imageFits s then none else some 2#4
  | .random => if imageFits s then none else some 2#4
  | .fs => if imageFits s then none else some 2#4
  | .blue =>
    if ¬imageFits s then some 2#4
    else if ¬textureFits s then some 3#4
    else if ¬kernelFits s then some 4#4 else none
  | .genTex =>
    if ¬textureFits s then some 3#4 else if ¬kernelFits s then some 4#4 else none
  | .blueDither =>
    if ¬imageFits s then some 2#4 else if s.status.texValid = false then some 5#4 else none
  | .all =>
    if ¬imageFits s then some 2#4
    else if ¬textureFits s then some 3#4
    else if ¬kernelFits s then some 4#4 else none

/-! What a completed job leaves outside its buffers. -/

/-- STATUS after a job of the op has completed (40_sequencer.md R157, R158). -/
def doneStatus (op : BitVec 4) (st : Status) : Status where
  busy := false
  done := true
  err := false
  wrbusy := st.wrbusy
  errCode := 0
  texValid := st.texValid
  lastOp := op

/-- The hidden state after a job that ran in one step: PHASE is IDLE, CUR_OP the op; the scan
position stands where acceptance put it (log 20). -/
def idleSeq (op : BitVec 4) (q : Sequencer) : Sequencer where
  curOp := op
  phase := .idle
  pos := 0
  entered := false
  sy := 0
  sx := 0
  bmin := q.bmin
  bmax := q.bmax
  seedL := q.seedL

/-- The seed the next reseed latches (43_random.md R186). -/
def nextSeed (s : State) : Word :=
  if s.regs.seedSrc then s.regs.seed else Config.timeIn s.env.samples

/-- The model's own fields after `n` reseeds: one sample of TIME_IN for each with SEED_SRC = 0. -/
def afterReseeds (n : Nat) (s : State) : Env :=
  { s.env with samples := s.env.samples + if s.regs.seedSrc then 0 else n }

/-- The state but for where the engine's scan stands, which nothing can observe (10_state.md R31,
R63). -/
def forgetScan (s : State) : State :=
  { s with seq := { s.seq with pos := 0, entered := false, sy := 0, sx := 0 } }

/-! Reference forms. -/

/-- The blurred value of a cell from the draws, the weights and the size alone
(45_bluenoise_texture.md R234). -/
def blurRef (draws : Nat → Nat) (weight : Nat → Nat) (r tw th ty tx : Nat) : Nat :=
  ((List.range (2 * r + 1)).map fun i =>
    ((List.range (2 * r + 1)).map fun j =>
      weight ((i : Int) - r).natAbs * weight ((j : Int) - r).natAbs *
        draws
          (reflIndex ((ty : Int) + ((i : Int) - r)) th * tw +
            reflIndex ((tx : Int) + ((j : Int) - r)) tw)).sum).sum

/-- The error a pixel has received from the visits before its own, given the error `e` of each
visited pixel: weight 7 from the left, 3 from above right, 5 from above, 1 from above left
(44_error_diffusion.md R201, R213). -/
def receivedError (c : Config) (w h : Nat) (e : Nat → Nat → Int) (y x : Nat) : Int :=
  (if 1 ≤ x ∧ visited w h y (x - 1) then share c (e y (x - 1)) 7 else 0) +
  (if 1 ≤ y ∧ visited w h (y - 1) (x + 1) then share c (e (y - 1) (x + 1)) 3 else 0) +
  (if 1 ≤ y ∧ visited w h (y - 1) x then share c (e (y - 1) x) 5 else 0) +
  (if 1 ≤ y ∧ 1 ≤ x ∧ visited w h (y - 1) (x - 1) then share c (e (y - 1) (x - 1)) 1 else 0)

/-! How long a job is. -/

/-- How many elements a phase of a job issued now steps over (40_sequencer.md R150): a texture
phase takes the dimensions that TEX_FILL will latch. -/
def phaseCount (s : State) (ph : Phase) : Nat :=
  (phaseElements ph { s with res := { s.res with twl := s.regs.texW, thl := s.regs.texH } }).length

/-- The elements a job of the command steps over (40_sequencer.md R155). -/
def jobElements (i : Instr) (s : State) : Nat :=
  ((phaseList s.cfg i).map (phaseCount s)).sum

/-- The engine steps of a job: its elements, and two for each phase, to enter and to leave it
(log 12). -/
def jobSteps (i : Instr) (s : State) : Nat :=
  jobElements i s + 2 * (phaseList s.cfg i).length

/-! Safe states. -/

/-- The STATUS fields agree with each other (10_state.md R36, 60_exceptions.md R301): ERRCODE is 0
exactly when ERR is 0 and never above 5, LAST_OP is an op code, and a running job has DONE and ERR
clear. -/
abbrev StatusOk (s : State) : Prop :=
  (s.status.err = false → s.status.errCode = 0) ∧
  (s.status.err = true → 1 ≤ s.status.errCode.toNat ∧ s.status.errCode.toNat ≤ 5) ∧
  s.status.lastOp.toNat ≤ 8 ∧
  (s.status.busy = true → s.status.done = false ∧ s.status.err = false)

/-- PHASE is IDLE when no job runs, and else the phase at the list position of CUR_OP's phase list
(10_state.md R31, R63). -/
def JobOk (s : State) : Prop :=
  (s.status.busy = false → s.seq.phase = .idle) ∧
  (s.status.busy = true →
    ∃ i, opOfCode s.seq.curOp = some i ∧ (phaseList s.cfg i)[s.seq.pos]? = some s.seq.phase)

/-- The size a phase needs to stay inside its buffers (20_memory.md R84). -/
def phaseFits (s : State) (ph : Phase) : Prop :=
  match ph with
  | .idle => True
  | .grayconv => imageFits s
  | .bayer => imageFits s
  | .random => imageFits s
  | .fsInit => imageFits s
  | .fsScan => imageFits s
  | .fsBorder => imageFits s
  | .texFill => textureFits s
  | .texBlur => textureFits s
  | .texNorm => textureFits s
  | .blueDither => imageFits s

/-- While a job runs, every phase of it fits its buffers (60_exceptions.md R302). -/
def JobFits (s : State) : Prop :=
  s.status.busy = true → ∀ ph ∈ currentPhases s, phaseFits s ph

/-- While a job runs, the scan position is the current phase's first element before the phase has
been entered, and then one of its elements until the scan has ended (40_sequencer.md R152). -/
def ScanOk (s : State) : Prop :=
  s.status.busy = true →
    if s.seq.entered then
      scanEnded s.seq.phase s s.seq.sy.toNat = true ∨
        (s.seq.sy.toNat, s.seq.sx.toNat) ∈ phaseElements s.seq.phase s
    else s.seq.sy = 0 ∧ s.seq.sx = firstColumn s.seq.phase

/-- Every listed index of a buffer lies below a bound. -/
abbrev CellsBelow {w : Nat} (c : Cells w) (n : Nat) : Prop :=
  ∀ e ∈ c, e.1 < n

/-- Every element written lies inside its buffer, every TEXRAW element has NOISE_BITS bits, and the
latched texture size fits (20_memory.md R84, 10_state.md R60). -/
abbrev BuffersOk (s : State) : Prop :=
  CellsBelow s.bufs.inp (capacity s.cfg .inp) ∧
  CellsBelow s.bufs.gray (capacity s.cfg .gray) ∧
  CellsBelow s.bufs.out0 (capacity s.cfg .out0) ∧
  CellsBelow s.bufs.out1 (capacity s.cfg .out1) ∧
  CellsBelow s.bufs.out2 (capacity s.cfg .out2) ∧
  CellsBelow s.bufs.out3 (capacity s.cfg .out3) ∧
  CellsBelow s.bufs.acc (capacity s.cfg .acc) ∧
  CellsBelow s.bufs.tex (capacity s.cfg .tex) ∧
  CellsBelow s.bufs.texRaw (capacity s.cfg .texRaw) ∧
  (∀ e ∈ s.bufs.texRaw, e.2.toNat < 2 ^ s.cfg.noiseBits) ∧
  s.res.twl.toNat ≤ s.cfg.texMaxW ∧ s.res.thl.toNat ≤ s.cfg.texMaxH

/-- A safe state. -/
def Safe (s : State) : Prop :=
  StatusOk s ∧ JobOk s ∧ JobFits s ∧ ScanOk s ∧ BuffersOk s ∧ Memory.wf s.bufs

end Sys2Proof.Machine
end

