-- ==== Sys2Proof/Certificates/Slice0/Obligations.lean ====
section
/-! DEFINITION. The statements for the provers. Each docstring says which rule of spec/ it is about. -/

open Sys2Proof Sys2Proof.Machine

/-! ## Encoding -/

/-- 30_encoding.md R125: the decoder is total on every 32-bit word; it gives the nine commands for
the words 0 to 8 and ILLEGAL for every other word. -/
def Obligations.DecoderIsTotal : Prop :=
  ∀ w : Word,
    (w.extractLsb' 4 28 ≠ 0#28 → ∃ e, decode w = .error e) ∧
    (w.extractLsb' 4 28 = 0#28 →
      (w.setWidth 4 = 0x0#4 → decode w = .ok .nop) ∧
      (w.setWidth 4 = 0x1#4 → decode w = .ok .gray) ∧
      (w.setWidth 4 = 0x2#4 → decode w = .ok .bayer) ∧
      (w.setWidth 4 = 0x3#4 → decode w = .ok .random) ∧
      (w.setWidth 4 = 0x4#4 → decode w = .ok .fs) ∧
      (w.setWidth 4 = 0x5#4 → decode w = .ok .blue) ∧
      (w.setWidth 4 = 0x6#4 → decode w = .ok .genTex) ∧
      (w.setWidth 4 = 0x7#4 → decode w = .ok .blueDither) ∧
      (w.setWidth 4 = 0x8#4 → decode w = .ok .all) ∧
      (0x9#4 ≤ w.setWidth 4 → ∃ e, decode w = .error e))

/-- Decode and encode are inverse to each other, on words and on little-endian bytes (30_encoding.md
R120, R121, 20_memory.md R82). -/
def Obligations.DecodeEncodeAgree : Prop :=
  (∀ i : Instr, i.wellFormed = true → decode (encode i) = .ok i) ∧
  (∀ (w : Word) (i : Instr), decode w = .ok i → w = encode i) ∧
  (∀ (i : Instr) (rest : List Byte), decodeBytes (encodeBytes i ++ rest) = .ok (i, rest)) ∧
  (∀ (bs rest : List Byte) (i : Instr),
    decodeBytes bs = .ok (i, rest) → bs = encodeBytes i ++ rest)

/-- The words of 95_test_vectors.md's programs decode to their commands, and its illegal words do
not decode. -/
def Obligations.SampleWordsDecode : Prop :=
  decode 0x00000002#32 = .ok .bayer ∧ decode 0x00000004#32 = .ok .fs ∧
  decode 0x00000006#32 = .ok .genTex ∧ decode 0x00000007#32 = .ok .blueDither ∧
  decode 0x00000008#32 = .ok .all ∧ decode 0x00000010#32 = .error .mbzNotZero ∧
  decode 0x00000009#32 = .error .reservedOp

/-! ## The step -/

/-- A step whose next input is the host's write of a decodable word to CMD runs that command, on the
state without that input. `overlap` is the input's choice of timing, and `writes` counts the host's
writes (the model's own, log 2, 6). -/
def Obligations.StepRunsDecodedCommand : Prop :=
  ∀ (s : State) (rest : List Input) (w : Word) (i : Instr) (overlap : Bool),
    s.cfg.base % 4 = 0 →
    s.env.inputs =
      .host
        { op := .write w
          addr := s.cfg.base + 0x008
          size := .word } overlap :: rest →
    decode w = .ok i →
    step s =
      exec i
        { s with
          env :=
            { s.env with inputs := rest, overlap := overlap, writes := s.env.writes + 1 } }

/-- The state that `withFetchWord` makes runs the command of the word at the next step, from any
state. -/
def Obligations.FetchedWordRuns : Prop :=
  ∀ (s : State) (i : Instr),
    s.cfg.base % 4 = 0 →
    step (s.withFetchWord 32 (encode i).toNat) =
      exec i { s with env := { s.env with overlap := false, writes := s.env.writes + 1 } }

/-- The register map of 10_state.md R32, offset by offset, both ways, with every other offset of the
window reserved; and a step whose next input is an aligned 32-bit access of the window reads or
writes the register at that offset (20_memory.md R80); a write is counted (the model's own, log
6). -/
def Obligations.StepPerformsRegisterAccess : Prop :=
  (∀ e ∈ ([(0x000, .id), (0x004, .ctrl), (0x008, .cmd), (0x00C, .status), (0x010, .width),
      (0x014, .height), (0x018, .texW), (0x01C, .texH), (0x020, .krad), (0x024, .kw0),
      (0x028, .kw1), (0x02C, .kw2), (0x030, .kw3), (0x034, .seed), (0x038, .seedUsed),
      (0x03C, .texRangeLo), (0x040, .texRangeHi), (0x044, .texDimL), (0x048, .bufSel),
      (0x04C, .bufAddr), (0x050, .bufData)] : List (Nat × Reg)),
    regAt e.1 = e.2 ∧ regOffset e.2 = e.1) ∧
  (∀ offset, 0x054 ≤ offset → offset < 0x1000 → regAt offset = .reserved) ∧
  ∀ (s : State) (rest : List Input) (op : BusOp) (offset : Nat) (overlap : Bool),
    s.cfg.base % 4 = 0 → offset % 4 = 0 → offset < 4096 →
    s.env.inputs =
      .host
        { op := op
          addr := s.cfg.base + offset
          size := .word } overlap :: rest →
    (op = .read →
      step s =
        .next
          (hostRead (regAt offset)
            { s with env := { s.env with inputs := rest, overlap := overlap } })) ∧
    (∀ v, op = .write v →
      step s =
        hostWrite (regAt offset) v
          { s with
            env :=
              { s.env with
                inputs := rest, overlap := overlap, writes := s.env.writes + 1 } })

/-- 20_memory.md R81: a narrow access, a burst and a misaligned access of the window are refused; an
access outside the window faults (R93, log 11). -/
def Obligations.OtherAccessesStop : Prop :=
  ∀ (s : State) (rest : List Input) (a : BusAccess) (overlap : Bool),
    s.env.inputs = .host a overlap :: rest →
    let inside := s.cfg.base ≤ a.addr ∧ a.addr < s.cfg.base + 4096
    (inside → a.size = .byte → step s = .refused .narrowAccess) ∧
    (inside → a.size = .half → step s = .refused .narrowAccess) ∧
    (inside → a.size = .burst → step s = .refused .burstAccess) ∧
    (inside → a.size = .word → a.addr % 4 ≠ 0 → step s = .refused .misalignedAccess) ∧
    (¬inside → step s = .fault .outsideWindow)

/-- With no input left, or with an engine input, one step is one step of the engine; when no job
runs it changes nothing (40_sequencer.md R153, 60_exceptions.md R314; log 15). -/
def Obligations.EngineMovesWhenNothingElseDoes : Prop :=
  ∀ s : State,
    (s.env.inputs = [] → step s = .next (engineStep s)) ∧
    (∀ rest, s.env.inputs = .engine :: rest →
      step s = .next (engineStep { s with env := { s.env with inputs := rest } })) ∧
    (s.env.inputs = [] → s.status.busy = false → step s = .next s)

/-! ## Issue -/

/-- 47_dispatch.md R280, 30_encoding.md R124: NOP changes nothing while BUSY = 0, and while BUSY = 1
sets WRBUSY only. -/
def Obligations.NopChangesNothing : Prop :=
  ∀ s : State,
    (s.status.busy = false → exec .nop s = .next s) ∧
    (s.status.busy = true →
      exec .nop s = .next { s with status := { s.status with wrbusy := true } })

/-- 10_state.md R50: a command issued while BUSY = 1 only sets WRBUSY, whichever command it is. -/
def Obligations.CommandWhileBusySetsWrbusyOnly : Prop :=
  ∀ (i : Instr) (s : State), s.status.busy = true →
    exec i s = .next { s with status := { s.status with wrbusy := true } }

/-- 60_exceptions.md R300 and R303: a rejected command sets ERR and the code of its first failing
check, the only state it changes; a host write of an illegal word to CMD is rejected with ERR_CMD
before any check (30_encoding.md R123, 40_sequencer.md R157); with IRQ_EN = 1 the interrupt line is 1
afterwards. -/
def Obligations.RejectionSetsErrAndCodeOnly : Prop :=
  ∀ s : State, s.status.busy = false →
    (∀ (i : Instr) (code : BitVec 4), rejectionCode i s = some code →
      ∃ t, exec i s = .next t ∧
        t = { s with status := { s.status with err := true, errCode := code } } ∧
        irq t = s.regs.irqEn) ∧
    (∀ (w : Word) (e : DecodeError), decode w = .error e →
      ∃ t, hostWrite .cmd w s = .next t ∧
        t = { s with status := { s.status with err := true, errCode := 1#4 } } ∧
        irq t = s.regs.irqEn)

/-- 40_sequencer.md R157: a command whose checks pass is accepted: DONE, ERR and ERRCODE are
cleared, BUSY is set, and the sequencer stands at the first element of the command's first phase.
Stated where the next input comes before the job has completed, so that acceptance is the whole
step (log 2); the fields of the hidden state that R157 does not name are as log 12 says, and in a
phase with no elements the scan position is the model's choice too (log 21). -/
def Obligations.AcceptanceOpensTheJob : Prop :=
  ∀ (i : Instr) (s : State), i ≠ .nop → s.status.busy = false → s.env.overlap = true →
    checksPass i s →
    exec i s =
      .next
        { s with
          status := { s.status with busy := true, done := false, err := false, errCode := 0 }
          seq :=
            { s.seq with
              curOp := opCode i
              phase := if i = .blue ∨ i = .genTex then .texFill else .grayconv
              pos := 0, entered := false, sy := 0, sx := 0 } }

/-! ## What each command does, with its frame

Stated for a job that completes before the next input (`overlap = false`, log 2); the statement
`SteppedJobEqualsWholeJob` carries it to every other timing. -/

/-- 41_grayscale.md R173 (R171): GRAY writes GRAY[p] for p < W·H from IN, and nothing else but
STATUS and the hidden sequencer fields. -/
def Obligations.GrayCommandConvertsImage : Prop :=
  ∀ s : State, s.status.busy = false → s.env.overlap = false → imageFits s →
    ∃ t, exec .gray s = .next t ∧
      (∀ p, p < imageH s * imageW s →
        readGray t p =
          if s.regs.inFmt then readIn s p
          else gray3 s.cfg (readIn s (3 * p)) (readIn s (3 * p + 1)) (readIn s (3 * p + 2))) ∧
      (∀ b p, (b = .gray → imageH s * imageW s ≤ p) → peek t b p = peek s b p) ∧
      t =
        { s with
          status := doneStatus 0x1#4 s.status
          seq := idleSeq 0x1#4 s.seq
          bufs := { s.bufs with gray := t.bufs.gray } }

/-- 42_bayer.md R178 (R177): BAYER writes GRAY as GRAY does, and OUT0 by the tiled thresholds, and
nothing else but STATUS and the hidden sequencer fields. -/
def Obligations.BayerCommandThresholdsImage : Prop :=
  ∀ s : State, s.status.busy = false → s.env.overlap = false → imageFits s →
    ∃ t, exec .bayer s = .next t ∧
      (∀ y x, y < imageH s → x < imageW s →
        readGray t (y * imageW s + x) = grayValue s (y * imageW s + x) ∧
        readOut0 t (y * imageW s + x) =
          if (bayerRom s.cfg (y % 4) (x % 4)).toNat < (grayValue s (y * imageW s + x)).toNat
          then 255 else 0) ∧
      (∀ b p, (b = .gray ∨ b = .out0 → imageH s * imageW s ≤ p) → peek t b p = peek s b p) ∧
      t =
        { s with
          status := doneStatus 0x2#4 s.status
          seq := idleSeq 0x2#4 s.seq
          bufs := { s.bufs with gray := t.bufs.gray, out0 := t.bufs.out0 } }

/-- 43_random.md R192 (R186, R191): RANDOM latches one seed and writes OUT1 from the draws of that
seed. The draws are the OPEN parameter NoiseGen: this holds for every function. -/
def Obligations.RandomCommandAddsNoise : Prop :=
  ∀ s : State, s.status.busy = false → s.env.overlap = false → imageFits s →
    ∃ t, exec .random s = .next t ∧
      (∀ p, p < imageH s * imageW s →
        readGray t p = grayValue s p ∧
        readOut1 t p =
          if 255 * 2 ^ s.cfg.noiseBits <
              (grayValue s p).toNat * 2 ^ s.cfg.noiseBits +
                255 * (Config.noiseGen (nextSeed s) p % 2 ^ s.cfg.noiseBits)
          then 255 else 0) ∧
      (∀ b p, (b = .gray ∨ b = .out1 → imageH s * imageW s ≤ p) → peek t b p = peek s b p) ∧
      t =
        { s with
          status := doneStatus 0x3#4 s.status
          res := { s.res with seedUsed := nextSeed s }
          seq := { idleSeq 0x3#4 s.seq with seedL := nextSeed s }
          env := afterReseeds 1 s
          bufs := { s.bufs with gray := t.bufs.gray, out1 := t.bufs.out1 } }

/-- 44_error_diffusion.md R215 (R200 to R213): FS is the Floyd–Steinberg recurrence. There is an
error for each visited pixel such that every pixel's accumulated value is its gray value and the
shares it received from the earlier visits; a visited pixel is thresholded in ACC and OUT2 and its
error is what the threshold took away; a border pixel keeps its accumulated value in ACC, and in
OUT2 its gray value (RAW) or the clamped accumulated value (ACC_SAT). -/
def Obligations.FsCommandIsErrorDiffusion : Prop :=
  ∀ s : State, s.status.busy = false → s.env.overlap = false → imageFits s →
    ∃ t, exec .fs s = .next t ∧
      (∃ e : Nat → Nat → Int, ∀ y x, y < imageH s → x < imageW s →
        let p := y * imageW s + x
        let v : Int :=
          (grayValue s p).toNat + receivedError s.cfg (imageW s) (imageH s) e y x
        readGray t p = grayValue s p ∧
        (visited (imageW s) (imageH s) y x = true →
          e y x = v - threshold s.cfg v ∧
          accValue t p = threshold s.cfg v ∧
          ((readOut2 t p).toNat : Int) = threshold s.cfg v) ∧
        (visited (imageW s) (imageH s) y x = false →
          accValue t p = v ∧
          ((readOut2 t p).toNat : Int) =
            match s.cfg.fsBorder with
            | .raw => (grayValue s p).toNat
            | .accSat => clamp v 0 255)) ∧
      (∀ b p, (b = .gray ∨ b = .out2 ∨ b = .acc → imageH s * imageW s ≤ p) →
        peek t b p = peek s b p) ∧
      t =
        { s with
          status := doneStatus 0x4#4 s.status
          seq := idleSeq 0x4#4 s.seq
          bufs :=
            { s.bufs with gray := t.bufs.gray, out2 := t.bufs.out2, acc := t.bufs.acc } }

/-- 45_bluenoise_texture.md R238 (R233 to R236): GEN_TEX latches the dimensions and one seed, and
leaves in TEX the blurred draws less their minimum, in TEX_RANGE the range, and TEX_VALID set.
NOISE_BITS is legal, so that no blurred value exceeds 64 bits (R237). -/
def Obligations.GenTexCommandMakesTexture : Prop :=
  ∀ s : State, s.status.busy = false → s.env.overlap = false → textureFits s → kernelFits s →
    s.cfg.noiseBitsOk = true →
    let tw := s.regs.texW.toNat
    let th := s.regs.texH.toNat
    let k := fun i => Config.noiseGen (nextSeed s) i % 2 ^ s.cfg.noiseBits
    let b := blurRef k (kernelWeight s) (kernelRadius s) tw th
    ∃ t lo hi, exec .genTex s = .next t ∧
      (∀ ty tx, ty < th → tx < tw → lo ≤ b ty tx ∧ b ty tx ≤ hi) ∧
      (∃ ty tx, ty < th ∧ tx < tw ∧ b ty tx = lo) ∧
      (∃ ty tx, ty < th ∧ tx < tw ∧ b ty tx = hi) ∧
      t.res.texRange.toNat = hi - lo ∧
      t.seq.bmin.toNat = lo ∧ t.seq.bmax.toNat = hi ∧
      (∀ ty tx, ty < th → tx < tw →
        (readTexRaw t (ty * tw + tx)).toNat = k (ty * tw + tx) ∧
        (readTex t (ty * tw + tx)).toNat = b ty tx - lo) ∧
      (∀ u p, (u = .tex ∨ u = .texRaw → th * tw ≤ p) → peek t u p = peek s u p) ∧
      t =
        { s with
          status := { doneStatus 0x6#4 s.status with texValid := true }
          res :=
            { seedUsed := nextSeed s
              texRange := t.res.texRange
              twl := s.regs.texW
              thl := s.regs.texH }
          seq :=
            { idleSeq 0x6#4 s.seq with
              seedL := nextSeed s, bmin := t.seq.bmin, bmax := t.seq.bmax }
          env := afterReseeds 1 s
          bufs := { s.bufs with tex := t.bufs.tex, texRaw := t.bufs.texRaw } }

/-- 46_bluenoise_dither.md R263 (R260, R261): BLUE_DITHER writes OUT3 by the stored texture, tiled
with the latched dimensions, and leaves the texture, its registers and TEX_VALID as they are. -/
def Obligations.BlueDitherCommandTilesTexture : Prop :=
  ∀ s : State, s.status.busy = false → s.env.overlap = false → imageFits s →
    s.status.texValid = true →
    ∃ t, exec .blueDither s = .next t ∧
      (∀ y x, y < imageH s → x < imageW s →
        let p := y * imageW s + x
        let cell := y % s.res.thl.toNat * s.res.twl.toNat + x % s.res.twl.toNat
        readGray t p = grayValue s p ∧
        readOut3 t p =
          if 255 * s.res.texRange.toNat <
              (grayValue s p).toNat * s.res.texRange.toNat + 255 * (readTex s cell).toNat
          then 255 else 0) ∧
      (∀ b p, (b = .gray ∨ b = .out3 → imageH s * imageW s ≤ p) → peek t b p = peek s b p) ∧
      t =
        { s with
          status := doneStatus 0x7#4 s.status
          seq := idleSeq 0x7#4 s.seq
          bufs := { s.bufs with gray := t.bufs.gray, out3 := t.bufs.out3 } }

/-- 46_bluenoise_dither.md R262: BLUE makes a fresh texture and dithers with it: it leaves exactly
what GEN_TEX and then BLUE_DITHER leave, but for LAST_OP and CUR_OP. -/
def Obligations.BlueIsGenTexThenBlueDither : Prop :=
  ∀ s : State, s.status.busy = false → s.env.overlap = false →
    imageFits s → textureFits s → kernelFits s →
    ∃ t u v, exec .blue s = .next t ∧ exec .genTex s = .next u ∧ exec .blueDither u = .next v ∧
      t =
        { v with
          status := { v.status with lastOp := 0x5#4 }
          seq := { v.seq with curOp := 0x5#4 } }

/-- 47_dispatch.md R281: ALL leaves exactly what BAYER, RANDOM, FS and BLUE leave when they are
issued one after another, but for LAST_OP and CUR_OP: four methods on the same unmodified image,
one gray conversion for four. -/
def Obligations.AllIsTheFourMethodsInSequence : Prop :=
  ∀ s : State, s.status.busy = false → s.env.overlap = false →
    imageFits s → textureFits s → kernelFits s → Memory.wf s.bufs →
    ∃ t u1 u2 u3 u4, exec .all s = .next t ∧
      exec .bayer s = .next u1 ∧ exec .random u1 = .next u2 ∧ exec .fs u2 = .next u3 ∧
      exec .blue u3 = .next u4 ∧
      t =
        { u4 with
          status := { u4.status with lastOp := 0x8#4 }
          seq := { u4.seq with curOp := 0x8#4 } }

/-! ## Laws of the methods -/

/-- 41_grayscale.md R170, R172: the luminance sum under both channel orders (blue, green, red bytes
and red, green, blue bytes), for any weights; with legal weights the exact sum needs no more than 8 bits, it is
the stored value, and three equal channels give that value. -/
def Obligations.GrayWeightsStayInRange : Prop :=
  ∀ (c : Config) (e0 e1 e2 : Byte),
    (c.channelOrder = .bgr →
      gray3Nat c e0 e1 e2 =
        (c.cR * e2.toNat + c.cG * e1.toNat + c.cB * e0.toNat + c.bias) / 2 ^ c.shift) ∧
    (c.channelOrder = .rgb →
      gray3Nat c e0 e1 e2 =
        (c.cR * e0.toNat + c.cG * e1.toNat + c.cB * e2.toNat + c.bias) / 2 ^ c.shift) ∧
    (c.grayWeightsOk = true →
      gray3Nat c e0 e1 e2 ≤ 255 ∧ (gray3 c e0 e1 e2).toNat = gray3Nat c e0 e1 e2 ∧
      gray3 c e0 e0 e0 = e0)

/-- 42_bayer.md R175: the threshold ROM is the source's literal table, but for the parameter's cell
[0][1]. -/
def Obligations.BayerRomIsTheSourceTable : Prop :=
  ∀ c : Config,
    (List.range 4).map (fun i => (List.range 4).map fun j => (bayerRom c i j).toNat) =
      [[0, if c.bayerM01 = .v127 then 127 else 128, 32, 159], [191, 64, 223, 96],
        [48, 175, 16, 143], [239, 112, 207, 80]]

/-- 42_bayer.md R179 (c): BAYER leaves an image that is already black and white as it is. -/
def Obligations.BayerKeepsBinaryImages : Prop :=
  ∀ (c : Config) (g : Byte) (y x : Nat), g = 0 ∨ g = 255 → bayerOut c g y x = g

/-- 43_random.md R193: a pixel of gray g is white exactly when its draw reaches
floor((255 − g)·2^N / 255) + 1. -/
def Obligations.RandomThresholdPerLevel : Prop :=
  ∀ (n : Nat) (g : Byte) (k : Nat),
    (randomOut n g k = 255 ↔ (255 - g.toNat) * 2 ^ n / 255 + 1 ≤ k) ∧
    (randomOut n g k ≠ 255 → randomOut n g k = 0)

/-- 43_random.md R187: two RANDOM jobs on the same image that latch the same seed give the same
OUT1, whatever else differs. -/
def Obligations.EqualSeedsGiveEqualNoise : Prop :=
  ∀ s s' t t' : State, s.cfg = s'.cfg → imageW s = imageW s' → imageH s = imageH s' →
    s.status.busy = false → s.env.overlap = false → imageFits s →
    s'.status.busy = false → s'.env.overlap = false →
    (∀ p, p < imageH s * imageW s → grayValue s p = grayValue s' p) →
    exec .random s = .next t → exec .random s' = .next t' → t.res.seedUsed = t'.res.seedUsed →
    ∀ p, p < imageH s * imageW s → readOut1 t p = readOut1 t' p

/-- 44_error_diffusion.md R203: the threshold under both values of FS_THRESH, on the value as it
stands, without clamping first. -/
def Obligations.ThresholdAt128 : Prop :=
  ∀ (c : Config) (v : Int),
    (c.fsThresh = .ge128 → (128 ≤ v → threshold c v = 255) ∧ (v < 128 → threshold c v = 0)) ∧
    (c.fsThresh = .gt128 → (128 < v → threshold c v = 255) ∧ (v ≤ 128 → threshold c v = 0))

/-- 44_error_diffusion.md R202 and 00_scope.md R12: a share is e·w/16 rounded to nearest with ties
toward zero, or truncated: it is within half a unit (one unit) of the exact quotient and never
farther from zero than a tie allows. -/
def Obligations.ShareIsRoundedSixteenths : Prop :=
  ∀ (c : Config) (e : Int) (w : Nat),
    (c.fsRound = .rntz →
      share c e w = e.sign * ((e.natAbs * w + 7) / 16) ∧
      share c e w = rntz (e * w) 16 ∧
      2 * (16 * share c e w - e * w).natAbs ≤ 16 ∧
      (2 * (16 * share c e w - e * w).natAbs = 16 → (16 * share c e w).natAbs < (e * w).natAbs)) ∧
    (c.fsRound = .trunc →
      share c e w = e.sign * ((e.natAbs * w) / 16) ∧
      share c e w = truncDiv (e * w) 16 ∧
      (16 * share c e w - e * w).natAbs < 16 ∧ (16 * share c e w).natAbs ≤ (e * w).natAbs)

/-- 44_error_diffusion.md R212: every value ACC ever holds in an FS job lies in [−128, 383]: after
any number of visits, at every pixel, under every choice of rounding and threshold. -/
def Obligations.AccumulatorStaysInRange : Prop :=
  ∀ (s : State) (n p : Nat), p < imageH s * imageW s →
    let t :=
      runElements .fsScan ((visitList (imageW s) (imageH s)).take n)
        (runPhase .fsInit (runPhase .grayconv s))
    accValue t p ≤ 383 ∧ -128 ≤ accValue t p

/-- 44_error_diffusion.md R216 and R214: after FS with FS_BORDER = RAW every visited sample of OUT2
is 0 or 255 and every border sample is its gray value; with W < 3 or H < 2 all of OUT2 and ACC are
the gray image. -/
def Obligations.FsBinaryInsideGrayAtBorder : Prop :=
  ∀ s : State, s.status.busy = false → s.env.overlap = false → imageFits s →
    s.cfg.fsBorder = .raw →
    ∃ t, exec .fs s = .next t ∧
      (∀ y x, y < imageH s → x < imageW s →
        (isBorder (imageW s) (imageH s) y x = false →
          readOut2 t (y * imageW s + x) = 0 ∨ readOut2 t (y * imageW s + x) = 255) ∧
        (isBorder (imageW s) (imageH s) y x = true →
          readOut2 t (y * imageW s + x) = grayValue s (y * imageW s + x))) ∧
      (imageW s < 3 ∨ imageH s < 2 → ∀ p, p < imageH s * imageW s →
        readOut2 t p = grayValue s p ∧ accValue t p = (grayValue s p).toNat)

/-- 45_bluenoise_texture.md R232: the reflected index is inside the texture, it is the index itself
inside, and the mirror image about either edge without repeating the edge. -/
def Obligations.ReflectionStaysInside : Prop :=
  ∀ (i : Int) (n : Nat), 1 ≤ n →
    reflIndex i n < n ∧
    (0 ≤ i → i < n → (reflIndex i n : Int) = i) ∧
    reflIndex (-i) n = reflIndex i n ∧
    reflIndex (2 * ((n : Int) - 1) - i) n = reflIndex i n ∧
    (n = 1 → reflIndex i n = 0)

/-- 10_state.md R60: an element of TEXRAW, written or not, has NOISE_BITS bits.
45_bluenoise_texture.md R237 (c): with draws of at most 24 bits and 16-bit weights, a blurred
value fits in 64 bits, so that TEX holds it exactly. -/
def Obligations.BlurFitsIn64Bits : Prop :=
  (∀ (s : State) (i : Nat), (readTexRaw s i).toNat < 2 ^ s.cfg.noiseBits) ∧
  ∀ (s : State) (ty tx : Nat), blurAt s ty tx < 2 ^ 64

/-- 45_bluenoise_texture.md R237 (a), (b): after GEN_TEX every numerator is at most the range, and
both 0 and the range occur. -/
def Obligations.TextureIsNormalised : Prop :=
  ∀ s : State, s.status.busy = false → s.env.overlap = false → textureFits s → kernelFits s →
    ∃ t, exec .genTex s = .next t ∧
      (∀ c, c < t.res.thl.toNat * t.res.twl.toNat → (readTex t c).toNat ≤ t.res.texRange.toNat) ∧
      (∃ c, c < t.res.thl.toNat * t.res.twl.toNat ∧ readTex t c = 0) ∧
      (∃ c, c < t.res.thl.toNat * t.res.twl.toNat ∧ readTex t c = t.res.texRange)

/-- 46_bluenoise_dither.md R261, R262: black stays black for every texture, an all-equal texture
(R = 0) gives black everywhere, and white is black exactly at the texture's minimum. -/
def Obligations.BlueOutputCornerCases : Prop :=
  ∀ (g : Byte) (r d : Nat), d ≤ r →
    blueOut 0 r d = 0 ∧ blueOut g 0 0 = 0 ∧ (blueOut 255 r d = 0 ↔ d = 0)

/-! ## Registers and the buffer port -/

/-- 10_state.md R32, R33 to R47, R70: reading each register of the map right after reset gives the
reset value of the table, and every STATUS field is 0. -/
def Obligations.RegistersAfterReset : Prop :=
  (∀ e ∈ ([(0x000, 0x44495448#32), (0x004, 0), (0x008, 0), (0x00C, 0), (0x010, 0), (0x014, 0),
      (0x018, 0x40#32), (0x01C, 0x40#32), (0x020, 3#32), (0x024, 0x22A6#32), (0x028, 0x1BBE#32),
      (0x02C, 0x0E3E#32), (0x030, 0x04B0#32), (0x034, 0), (0x038, 0), (0x03C, 0), (0x040, 0),
      (0x044, 0), (0x048, 0), (0x04C, 0)] : List (Nat × Word)),
    (readReg (regAt e.1) State.reset).1 = e.2) ∧
  irq State.reset = false ∧ State.reset.seq.phase = .idle

/-- 70_reset_and_hazards.md R340, R341: asserting reset, idle or busy, puts every register at its
reset value, STATUS at 0, PHASE at IDLE and irq at 0; every buffer is unspecified anew. The
parameters stay. What the hidden registers hold, that the model's own fields stay, and that the
unspecified values are drawn again, are the model's choices (log 7, 9, 16). -/
def Obligations.ResetPutsTheBlockInItsResetState : Prop :=
  ∀ (s : State) (rest : List Input), s.env.inputs = .reset :: rest →
    ∃ t, step s = .next t ∧ t.cfg = s.cfg ∧ t.regs = State.reset.regs ∧
      t.status = State.reset.status ∧ t.res = State.reset.res ∧ t.seq.phase = .idle ∧
      irq t = false ∧
      (∀ b i, peek t b i =
        match b with
        | .tex => Config.unwritten (s.env.epoch + 1) .tex i
        | .acc => ((Config.unwritten (s.env.epoch + 1) .acc i).setWidth 16).setWidth 64
        | .texRaw =>
          BitVec.ofNat 64
            ((Config.unwritten (s.env.epoch + 1) .texRaw i).toNat % 2 ^ 24 % 2 ^ s.cfg.noiseBits)
        | b => ((Config.unwritten (s.env.epoch + 1) b i).setWidth 8).setWidth 64)

/-- 70_reset_and_hazards.md R357, 10_state.md R34 to R47: a read of a configuration register right
after a write while BUSY = 0 returns the written value with its reserved bits 0; the write changes
no other register and nothing else. -/
def Obligations.ConfigurationReadsBack : Prop :=
  ∀ (s : State) (v : Word) (r : Reg) (mask : Word), s.status.busy = false →
    (r, mask) ∈ ([(.ctrl, 0x7#32), (.width, 0xFFFF#32), (.height, 0xFFFF#32), (.texW, 0xFFFF#32),
      (.texH, 0xFFFF#32), (.krad, 0x3#32), (.kw0, 0xFFFF#32), (.kw1, 0xFFFF#32),
      (.kw2, 0xFFFF#32), (.kw3, 0xFFFF#32), (.seed, 0xFFFFFFFF#32), (.bufSel, 0x7#32),
      (.bufAddr, 0xFFFFFFFF#32)] : List (Reg × Word)) →
    ∃ t, hostWrite r v s = .next t ∧ readReg r t = (v &&& mask, t) ∧
      t = { s with regs := t.regs } ∧
      (∀ r', r' ≠ r → r' ≠ .bufData → (readReg r' t).1 = (readReg r' s).1)

/-- 10_state.md R33, R36, R43 to R45, R49: a write to a read-only register or a reserved offset is
ignored at any time and sets no status bit; ID always reads the constant; CMD and reserved offsets
read 0 with no side effect (R35, R49). -/
def Obligations.ReadOnlyWritesIgnored : Prop :=
  ∀ (s : State) (v : Word),
    (∀ r, r = .id ∨ r = .seedUsed ∨ r = .texRangeLo ∨ r = .texRangeHi ∨ r = .texDimL ∨
      r = .reserved → hostWrite r v s = .next s) ∧
    readReg .id s = (0x44495448#32, s) ∧ readReg .cmd s = (0, s) ∧
    (∀ offset, 0x054 ≤ offset → offset < 0x1000 →
      readReg (regAt offset) s = (0, s) ∧ hostWrite (regAt offset) v s = .next s)

/-- 10_state.md R50: while BUSY = 1 a write to any of the listed registers changes nothing but
WRBUSY; a write to STATUS acts as R36 says; a write to a read-only or reserved offset is ignored and
does not set WRBUSY; so every configuration register keeps its value over every write, and over
every step but a reset. -/
def Obligations.WritesWhileBusy : Prop :=
  ∀ (s : State) (v : Word), s.status.busy = true →
    (∀ r, r = .ctrl ∨ r = .cmd ∨ r = .width ∨ r = .height ∨ r = .texW ∨ r = .texH ∨ r = .krad ∨
      r = .kw0 ∨ r = .kw1 ∨ r = .kw2 ∨ r = .kw3 ∨ r = .seed ∨ r = .bufSel ∨ r = .bufAddr ∨
      r = .bufData →
      hostWrite r v s = .next { s with status := { s.status with wrbusy := true } }) ∧
    hostWrite .status v s = .next (writeStatus v s) ∧
    (∀ r, r = .id ∨ r = .seedUsed ∨ r = .texRangeLo ∨ r = .texRangeHi ∨ r = .texDimL ∨
      r = .reserved → hostWrite r v s = .next s) ∧
    (∀ r t, hostWrite r v s = .next t → t.regs = s.regs) ∧
    (∀ t, (∀ rest, s.env.inputs ≠ .reset :: rest) → step s = .next t → t.regs = s.regs)

/-- 10_state.md R36: a write to STATUS clears DONE, ERR (with ERRCODE) and WRBUSY where the written
bit is 1, at any time, and changes nothing else. -/
def Obligations.StatusWriteOneToClear : Prop :=
  ∀ (s : State) (v : Word),
    hostWrite .status v s =
      .next
        { s with
          status :=
            { s.status with
              done := s.status.done && !v.getLsbD 1
              err := s.status.err && !v.getLsbD 2
              errCode := if v.getLsbD 2 then 0 else s.status.errCode
              wrbusy := s.status.wrbusy && !v.getLsbD 3 } }

/-- 10_state.md R36, 20_memory.md R91: the bits of a STATUS read; TEX_VALID is exact while BUSY = 0.
Reserved bits read 0. -/
def Obligations.StatusReadLayout : Prop :=
  ∀ s : State,
    let v := (readReg .status s).1
    v.getLsbD 0 = s.status.busy ∧ v.getLsbD 1 = s.status.done ∧ v.getLsbD 2 = s.status.err ∧
    v.getLsbD 3 = s.status.wrbusy ∧ v.extractLsb' 4 4 = s.status.errCode ∧
    (s.status.busy = false → v.getLsbD 8 = s.status.texValid) ∧
    v.extractLsb' 9 3 = 0 ∧ v.extractLsb' 12 4 = s.status.lastOp ∧ v.extractLsb' 16 16 = 0

/-- 20_memory.md R88, R91: while BUSY = 1 a read of SEED_USED, TEX_RANGE_LO, TEX_RANGE_HI, TEX_DIM_L
or BUF_DATA, and the TEX_VALID bit of STATUS, return a free value; STATUS reads BUSY = 1, DONE, ERR
and ERRCODE 0, and WRBUSY and LAST_OP as they stand. The host receives the value read, and the read
of any register, BUF_DATA among them, changes nothing else. R89: reading it again, at once or after
an engine step that does not complete the job, returns the same value. A write of BUF_DATA sets
WRBUSY only. The statement holds for every choice of the free values; that one is given by the
register's offset and the count of the host's writes is the model's choice, and so is the record of
what the host received (log 6, 10). What a configuration register reads as at any time is in
`OtherReadsHaveNoSideEffect`. -/
def Obligations.ReadsWhileBusy : Prop :=
  ∀ s : State, s.status.busy = true →
    (∀ r, r = .seedUsed ∨ r = .texRangeLo ∨ r = .texRangeHi ∨ r = .texDimL ∨ r = .bufData →
      (readReg r s).1 = Config.busyRead (regOffset r) s.env.writes) ∧
    (StatusOk s →
      let v := (readReg .status s).1
      v.getLsbD 0 = true ∧ v.getLsbD 1 = false ∧ v.getLsbD 2 = false ∧
      v.getLsbD 3 = s.status.wrbusy ∧ v.extractLsb' 4 4 = 0 ∧
      v.getLsbD 8 = (Config.busyRead 0x00C s.env.writes).getLsbD 0 ∧
      v.extractLsb' 12 4 = s.status.lastOp) ∧
    (∀ r,
      hostRead r s =
        { s with env := { s.env with received := (readReg r s).1 :: s.env.received } } ∧
      (readReg r (hostRead r s)).1 = (readReg r s).1 ∧
      ((engineStep (hostRead r s)).status.busy = true →
        (readReg r (engineStep (hostRead r s))).1 = (readReg r s).1)) ∧
    (∀ v, hostWrite .bufData v s = .next { s with status := { s.status with wrbusy := true } })

/-- 20_memory.md R84: the capacity of each buffer. R85, R87: a read of BUF_DATA while BUSY = 0
returns the element at BUF_ADDR of the selected buffer, zero-extended, as a 32-bit half, or
sign-extended, and 0 beyond the capacity; then BUF_ADDR advances by 1 modulo 2^32 and nothing else
of the block changes. -/
def Obligations.BufDataRead : Prop :=
  (∀ c : Config,
    capacity c .inp = 3 * c.maxW * c.maxH ∧
    (∀ b ∈ [BufId.gray, .out0, .out1, .out2, .out3, .acc], capacity c b = c.maxW * c.maxH) ∧
    (∀ b ∈ [BufId.tex, .texRaw], capacity c b = c.texMaxW * c.texMaxH)) ∧
  ∀ s : State, s.status.busy = false →
    let a := s.regs.bufAddr.toNat
    let sel := s.regs.bufSel.toNat
    ∃ v,
      hostRead .bufData s =
        { s with
          regs := { s.regs with bufAddr := s.regs.bufAddr + 1 }
          env := { s.env with received := v :: s.env.received } } ∧
      (∀ b, (sel, b) ∈ ([(0, .inp), (1, .gray), (2, .out0), (3, .out1), (4, .out2), (5, .out3)] :
          List (Nat × BufId)) →
        v = if a < capacity s.cfg b then (peek s b a).setWidth 32 else 0) ∧
      (sel = 6 →
        v = if a / 2 < capacity s.cfg .tex then
            (if a % 2 = 0 then (readTex s (a / 2)).extractLsb' 0 32
              else (readTex s (a / 2)).extractLsb' 32 32)
          else 0) ∧
      (sel = 7 → v = if a < capacity s.cfg .acc then (readAcc s a).signExtend 32 else 0)

/-- 20_memory.md R86: a write of BUF_DATA while BUSY = 0 stores the low byte in IN when BUF_SEL is 0
and BUF_ADDR is below its capacity, and no other element of any buffer; BUF_ADDR advances in any
case. -/
def Obligations.BufDataWrite : Prop :=
  ∀ (s : State) (v : Word), s.status.busy = false →
    let a := s.regs.bufAddr.toNat
    let stores := s.regs.bufSel = 0 ∧ a < capacity s.cfg .inp
    ∃ t, hostWrite .bufData v s = .next t ∧
      (stores → readIn t a = v.setWidth 8) ∧
      (∀ b i, (stores → ¬(b = .inp ∧ i = a)) → peek t b i = peek s b i) ∧
      t =
        { s with
          regs := { s.regs with bufAddr := s.regs.bufAddr + 1 }
          bufs := { s.bufs with inp := t.bufs.inp } }

/-- 10_state.md R34, R37 to R42, R46, R47, 20_memory.md R91: each configuration register reads as its
own field, zero-extended, while a job runs and while none does. While BUSY = 0: SEED_USED reads the
latched seed, TEX_RANGE_LO and TEX_RANGE_HI the low and the high half of the range, TEX_DIM_L THL
above TWL (10_state.md R43 to R45); and the read of any register but BUF_DATA changes nothing but what
the host has received, so that reading it again returns the same value (20_memory.md R89). STATUS is
covered by `StatusReadLayout`, ID, CMD and the reserved offsets by `ReadOnlyWritesIgnored`, and reads
while BUSY = 1 by `ReadsWhileBusy`. -/
def Obligations.OtherReadsHaveNoSideEffect : Prop :=
  ∀ s : State,
    ((readReg .ctrl s).1.toNat =
        s.regs.inFmt.toNat + 2 * s.regs.seedSrc.toNat + 4 * s.regs.irqEn.toNat ∧
      (readReg .width s).1.toNat = s.regs.width.toNat ∧
      (readReg .height s).1.toNat = s.regs.height.toNat ∧
      (readReg .texW s).1.toNat = s.regs.texW.toNat ∧
      (readReg .texH s).1.toNat = s.regs.texH.toNat ∧
      (readReg .krad s).1.toNat = s.regs.krad.toNat ∧
      (readReg .kw0 s).1.toNat = s.regs.kw0.toNat ∧
      (readReg .kw1 s).1.toNat = s.regs.kw1.toNat ∧
      (readReg .kw2 s).1.toNat = s.regs.kw2.toNat ∧
      (readReg .kw3 s).1.toNat = s.regs.kw3.toNat ∧
      (readReg .seed s).1 = s.regs.seed ∧
      (readReg .bufSel s).1.toNat = s.regs.bufSel.toNat ∧
      (readReg .bufAddr s).1 = s.regs.bufAddr) ∧
    (s.status.busy = false →
      (readReg .seedUsed s).1 = s.res.seedUsed ∧
      (readReg .texRangeLo s).1.toNat = s.res.texRange.toNat % 2 ^ 32 ∧
      (readReg .texRangeHi s).1.toNat = s.res.texRange.toNat / 2 ^ 32 ∧
      (readReg .texDimL s).1.toNat = s.res.thl.toNat * 2 ^ 16 + s.res.twl.toNat ∧
      (∀ r, r ≠ .bufData →
        hostRead r s =
          { s with env := { s.env with received := (readReg r s).1 :: s.env.received } } ∧
        (readReg r (hostRead r s)).1 = (readReg r s).1))

/-- 20_memory.md R92: the engine writes neither IN nor a configuration register, by any command or
any engine step; a host access other than a write of CMD changes no buffer but IN and no engine
register. -/
def Obligations.WritersAreSeparate : Prop :=
  (∀ (i : Instr) (s t : State), exec i s = .next t →
    t.regs = s.regs ∧ t.bufs.inp = s.bufs.inp) ∧
  (∀ s : State, (engineStep s).regs = s.regs ∧ (engineStep s).bufs.inp = s.bufs.inp) ∧
  (∀ (r : Reg) (s : State),
    (hostRead r s).bufs = s.bufs ∧ (hostRead r s).res = s.res ∧
      (hostRead r s).status = s.status) ∧
  (∀ (r : Reg) (v : Word) (s t : State), r ≠ .cmd → hostWrite r v s = .next t →
    t.bufs = { s.bufs with inp := t.bufs.inp } ∧ t.res = s.res ∧ t.seq = s.seq ∧
      t.status.busy = s.status.busy ∧ t.status.texValid = s.status.texValid ∧
      t.status.lastOp = s.status.lastOp)

/-- 60_exceptions.md R310, 10_state.md R65: the interrupt line is the function IRQ_EN and (DONE or
ERR) of the state, 0 after reset; and through the events that raise and clear it: a completed job or a rejection raises it when IRQ_EN = 1, setting IRQ_EN while DONE or ERR
is 1 raises it at once, and clearing both status bits, or clearing IRQ_EN, lowers it. -/
def Obligations.InterruptFollowsStatus : Prop :=
  (∀ s, irq s = (s.regs.irqEn && (s.status.done || s.status.err))) ∧
  irq State.reset = false ∧
  (∀ s, irq (complete s) = s.regs.irqEn) ∧
  (∀ c s, irq (reject c s) = s.regs.irqEn) ∧
  (∀ i s, irq (accept i s) = false) ∧
  (∀ s v t, s.status.busy = false → hostWrite .ctrl v s = .next t →
    irq t = (v.getLsbD 2 && (s.status.done || s.status.err))) ∧
  (∀ s v t, hostWrite .status v s = .next t → v.getLsbD 1 = true → v.getLsbD 2 = true →
    irq t = false)

/-! ## The engine -/

/-- 40_sequencer.md R152, R153: an engine step inside a phase's scan does what the phase says for
the one element at the scan position, and moves the position on in raster order. FS_SCAN and
FS_BORDER step over their subsets and are covered by `SteppedJobEqualsWholeJob`. -/
def Obligations.EngineStepProcessesOneElement : Prop :=
  ∀ s : State, s.status.busy = true → s.seq.entered = true →
    s.seq.phase ≠ .fsScan → s.seq.phase ≠ .fsBorder →
    s.seq.sx.toNat < gridW s.seq.phase s → s.seq.sy.toNat < gridH s.seq.phase s →
    let u := stepElement s.seq.phase s.seq.sy.toNat s.seq.sx.toNat s
    engineStep s =
      { u with
        seq :=
          { u.seq with
            sy := if s.seq.sx.toNat + 1 < gridW s.seq.phase s then s.seq.sy else s.seq.sy + 1
            sx := if s.seq.sx.toNat + 1 < gridW s.seq.phase s then s.seq.sx + 1 else 0 } }

/-- 40_sequencer.md R158: when the last phase of the list has finished, LAST_OP takes CUR_OP, BUSY
falls, DONE rises and PHASE is IDLE, all at one instant; WRBUSY stays, irq is IRQ_EN; TEX_VALID rises
with it only at the end of TEX_NORM (45_bluenoise_texture.md R236). -/
def Obligations.CompletionAtOneInstant : Prop :=
  ∀ s : State, s.status.busy = true → s.seq.entered = true →
    scanEnded s.seq.phase s s.seq.sy.toNat = true →
    (currentPhases s)[s.seq.pos + 1]? = none →
    engineStep s =
      { s with
        status :=
          { s.status with
            busy := false
            done := true
            lastOp := s.seq.curOp
            texValid := s.status.texValid || decide (s.seq.phase = .texNorm) }
        seq := { s.seq with phase := .idle } } ∧
    irq (engineStep s) = s.regs.irqEn

/-- 40_sequencer.md R155: how many elements the job of each command processes, with n_img = W·H,
n_tex = TW·TH, the visited pixels n_fs and the border pixels n_bdr (44_error_diffusion.md R205). -/
def Obligations.JobElementCounts : Prop :=
  ∀ s : State,
    let w := imageW s
    let h := imageH s
    let img := w * h
    let tex := s.regs.texW.toNat * s.regs.texH.toNat
    let fs := if 3 ≤ w ∧ 2 ≤ h then (h - 1) * (w - 2) else 0
    let bdr := if s.cfg.fsBorder = .accSat then img - fs else 0
    jobElements .gray s = img ∧ jobElements .bayer s = 2 * img ∧ jobElements .random s = 2 * img ∧
    jobElements .blueDither s = 2 * img ∧ jobElements .fs s = 2 * img + fs + bdr ∧
    jobElements .genTex s = 3 * tex ∧ jobElements .blue s = 3 * tex + 2 * img ∧
    jobElements .all s = 5 * img + fs + bdr + 3 * tex

/-- 40_sequencer.md R159, R160: the stepped engine and the job function agree. A job that is
accepted and then stepped by the engine, one element at a time, is busy until its last step and
then stands exactly where the same command run in one step stands, but for the hidden scan
position. -/
def Obligations.SteppedJobEqualsWholeJob : Prop :=
  ∀ (i : Instr) (s : State), i ≠ .nop → s.status.busy = false → checksPass i s →
    ∃ a t,
      exec i { s with env := { s.env with overlap := true } } = .next a ∧
      exec i { s with env := { s.env with overlap := false } } = .next t ∧
      (∀ n, n < jobSteps i s → (engineRun n a).status.busy = true) ∧
      forgetScan (engineRun (jobSteps i s) a) =
        forgetScan { t with env := { t.env with overlap := true } }

/-- 40_sequencer.md R155, 70_reset_and_hazards.md R352: every accepted job completes: from the
accepted state, with no further input, the machine itself steps to DONE = 1, BUSY = 0 and LAST_OP
the command, in a number of steps bounded by the element count (log 12). -/
def Obligations.AcceptedJobCompletes : Prop :=
  ∀ (i : Instr) (s a : State), i ≠ .nop → s.status.busy = false → s.env.overlap = true →
    s.env.inputs = [] → checksPass i s → exec i s = .next a →
    ∃ t, core.run (jobElements i s + 2 * (phaseList s.cfg i).length) a = .next t ∧
      t.status.busy = false ∧ t.status.done = true ∧ t.status.lastOp = opCode i

/-- 40_sequencer.md R156, 10_state.md R50: no host access changes a running job: while BUSY = 1 an
access that the block answers leaves the buffers, the configuration, the results, the sequencer and
the source of the job's seeds as they are, and BUSY set. -/
def Obligations.HostCannotDisturbARunningJob : Prop :=
  ∀ (s t : State) (a : BusAccess), s.status.busy = true → hostAccess a s = .next t →
    t.cfg = s.cfg ∧ t.regs = s.regs ∧ t.bufs = s.bufs ∧ t.res = s.res ∧ t.seq = s.seq ∧
    t.env.samples = s.env.samples ∧ t.env.epoch = s.env.epoch ∧ t.env.inputs = s.env.inputs ∧
    t.status.busy = true ∧ t.status.texValid = s.status.texValid ∧
    t.status.lastOp = s.status.lastOp

/-! ## Invariants -/

/-- The state after reset is safe. -/
def Obligations.ResetStateIsSafe : Prop :=
  Safe State.reset

/-- Every step keeps the STATUS fields and the sequencer consistent: ERRCODE 0 exactly without ERR,
only the codes 1 to 5, LAST_OP an op code, no DONE or ERR while a job runs, PHASE IDLE when none
runs and else the phase its list and position give (10_state.md R36, R63, 60_exceptions.md R301). -/
def Obligations.StepKeepsStatusConsistent : Prop :=
  ∀ s t : State, StatusOk s → JobOk s → step s = .next t → StatusOk t ∧ JobOk t

/-- Every step keeps every buffer in its canonical form (log 8). -/
def Obligations.StepKeepsMemoryCanonical : Prop :=
  ∀ s t : State, Memory.wf s.bufs → step s = .next t → Memory.wf t.bufs

/-- Every step from a safe state gives a safe state: the engine and the host write inside the
buffers only, the scan stays on the phase's elements, and a running job fits its buffers
(20_memory.md R84, 60_exceptions.md R304). -/
def Obligations.StepKeepsEveryAccessInRange : Prop :=
  ∀ s t : State, Safe s → step s = .next t → Safe t

/-- No step changes an implementation parameter (00_scope.md R7), and the threshold ROM is the same
after every step (10_state.md R61). -/
def Obligations.ParametersNeverChange : Prop :=
  ∀ s t : State, step s = .next t →
    t.cfg = s.cfg ∧ ∀ i j, bayerRom t.cfg i j = bayerRom s.cfg i j

/-- TEX_VALID is 1 only for a complete texture: from a state in which the latched dimensions are
positive whenever TEX_VALID is 1 and a running job's texture phases fit, every step keeps that, so
BLUE_DITHER never tiles by zero (10_state.md R36, R45; 46_bluenoise_dither.md R260). -/
def Obligations.ValidTextureHasASize : Prop :=
  ∀ s t : State, Safe s →
    (s.status.texValid = true → 1 ≤ s.res.twl.toNat ∧ 1 ≤ s.res.thl.toNat) →
    (s.status.busy = true → s.seq.phase = .texBlur ∨ s.seq.phase = .texNorm →
      1 ≤ s.res.twl.toNat ∧ 1 ≤ s.res.thl.toNat) →
    (s.status.busy = true → s.seq.phase = .texFill → s.seq.entered = true →
      1 ≤ s.res.twl.toNat ∧ 1 ≤ s.res.thl.toNat) →
    step s = .next t →
    (t.status.texValid = true → 1 ≤ t.res.twl.toNat ∧ 1 ≤ t.res.thl.toNat) ∧
    (t.status.busy = true → t.seq.phase = .texBlur ∨ t.seq.phase = .texNorm →
      1 ≤ t.res.twl.toNat ∧ 1 ≤ t.res.thl.toNat) ∧
    (t.status.busy = true → t.seq.phase = .texFill → t.seq.entered = true →
      1 ≤ t.res.twl.toNat ∧ 1 ≤ t.res.thl.toNat)

/-! ## The operands of the commands -/

/-- 30_encoding.md R122, R126: the names in which the statements on the commands speak are the
configuration registers: W and H (10_state.md R37), the radius (R40), the weight w(d) at each
distance d (R41, 45_bluenoise_texture.md R231), and the gray value of a pixel by IN_FMT (R34,
41_grayscale.md R171); the engine's reads of a buffer and the frames' read of it agree, and an ACC
element is two's complement (R58). -/
def Obligations.OperandsAreTheConfigurationRegisters : Prop :=
  ∀ s : State,
    imageW s = s.regs.width.toNat ∧ imageH s = s.regs.height.toNat ∧
    kernelRadius s = s.regs.krad.toNat ∧
    kernelWeight s 0 = s.regs.kw0.toNat ∧ kernelWeight s 1 = s.regs.kw1.toNat ∧
    kernelWeight s 2 = s.regs.kw2.toNat ∧ kernelWeight s 3 = s.regs.kw3.toNat ∧
    (∀ p, (s.regs.inFmt = true → grayValue s p = readIn s p) ∧
      (s.regs.inFmt = false →
        grayValue s p =
          gray3 s.cfg (readIn s (3 * p)) (readIn s (3 * p + 1)) (readIn s (3 * p + 2)))) ∧
    (∀ i, (peek s .inp i).toNat = (readIn s i).toNat ∧
      (peek s .gray i).toNat = (readGray s i).toNat ∧
      (peek s .out0 i).toNat = (readOut0 s i).toNat ∧
      (peek s .out1 i).toNat = (readOut1 s i).toNat ∧
      (peek s .out2 i).toNat = (readOut2 s i).toNat ∧
      (peek s .out3 i).toNat = (readOut3 s i).toNat ∧
      (peek s .acc i).toNat = (readAcc s i).toNat ∧ peek s .tex i = readTex s i ∧
      (peek s .texRaw i).toNat = (readTexRaw s i).toNat ∧
      accValue s i =
        if (readAcc s i).toNat < 2 ^ 15 then ((readAcc s i).toNat : Int)
        else (readAcc s i).toNat - 2 ^ 16)

/-- 44_error_diffusion.md R200: the visited set V is the rows 0 to H−2 and the columns 1 to W−2,
empty when W < 3 or H < 2. R205: inside the image a border pixel is one that is not in V. -/
def Obligations.VisitedPixelsAreRowsAndInnerColumns : Prop :=
  ∀ w h y x : Nat,
    (visited w h y x = true ↔
      (y : Int) ≤ (h : Int) - 2 ∧ 1 ≤ (x : Int) ∧ (x : Int) ≤ (w : Int) - 2) ∧
    (w < 3 ∨ h < 2 → visited w h y x = false) ∧
    (y < h → x < w → (isBorder w h y x = true ↔ visited w h y x = false))
end

