-- ==== Sys2Proof/Laws/Memory.lean ====
section
/-! SUPPORT. What reading and writing a buffer do: a read after a write, the canonical form, and the
keys a write adds. -/

namespace Sys2Proof.Machine

variable {w : Nat}

@[simp] theorem cellGet?_nil (i : Nat) : cellGet? ([] : Cells w) i = none := rfl

/-- A read of the index just written gives the value written. -/
@[simp] theorem cellGet?_cellSet_same (c : Cells w) (i : Nat) (x : BitVec w) :
    cellGet? (cellSet c i x) i = some x := by
  induction c with
  | nil => simp [cellSet, cellGet?]
  | cons e rest ih =>
    obtain ⟨j, v⟩ := e
    simp only [cellSet]
    split
    · simp [cellGet?]
    · split <;> simp_all [cellGet?]

/-- A write leaves every other index as it was. -/
theorem cellGet?_cellSet_other (c : Cells w) {i k : Nat} (x : BitVec w) (h : k ≠ i) :
    cellGet? (cellSet c i x) k = cellGet? c k := by
  induction c with
  | nil => simp [cellSet, cellGet?, h]
  | cons e rest ih =>
    obtain ⟨j, v⟩ := e
    simp only [cellSet]
    split
    · rename_i hij; subst hij; simp [cellGet?, h]
    · split <;> simp_all [cellGet?]

/-- The indices of a written buffer: the old ones and the one written. -/
theorem mem_keys_cellSet (c : Cells w) (i : Nat) (x : BitVec w) (k : Nat) :
    k ∈ (cellSet c i x).map Prod.fst ↔ k = i ∨ k ∈ c.map Prod.fst := by
  induction c with
  | nil => simp [cellSet]
  | cons e rest ih =>
    obtain ⟨j, v⟩ := e
    simp only [cellSet]
    split
    · rename_i hij; subst hij; simp
    · split
      · simp
      · simp only [List.map_cons, List.mem_cons, ih]; tauto

/-- A write keeps the canonical form. -/
theorem cellSet_wf {c : Cells w} (h : CellsWf c) (i : Nat) (x : BitVec w) :
    CellsWf (cellSet c i x) := by
  induction c with
  | nil => simp [CellsWf, cellSet]
  | cons e rest ih =>
    obtain ⟨j, v⟩ := e
    simp only [CellsWf, List.map_cons, List.pairwise_cons] at h
    obtain ⟨hj, hr⟩ := h
    simp only [cellSet]
    split
    · rename_i hij; subst hij; simpa [CellsWf] using ⟨by simpa using hj, hr⟩
    · split
      · rename_i hij
        simp only [CellsWf, List.map_cons, List.pairwise_cons]
        refine ⟨?_, hj, hr⟩
        intro a ha
        rcases List.mem_cons.mp ha with rfl | ha
        · exact hij
        · exact hij.trans (hj a ha)
      · rename_i hne hlt
        simp only [CellsWf, List.map_cons, List.pairwise_cons]
        refine ⟨?_, ih hr⟩
        intro a ha
        rcases (mem_keys_cellSet rest i x a).mp ha with rfl | ha
        · omega
        · exact hj a ha

/-- Writing what a canonical buffer already lists changes nothing. -/
theorem cellSet_idem {c : Cells w} (h : CellsWf c) {i : Nat} {x : BitVec w}
    (hg : cellGet? c i = some x) : cellSet c i x = c := by
  induction c with
  | nil => simp at hg
  | cons e rest ih =>
    obtain ⟨j, v⟩ := e
    simp only [CellsWf, List.map_cons, List.pairwise_cons] at h
    obtain ⟨hj, hr⟩ := h
    simp only [cellGet?] at hg
    simp only [cellSet]
    split at hg
    · rename_i hij; subst hij; simp_all
    · rename_i hij
      have hmem : i ∈ rest.map Prod.fst := by
        clear ih hj hr
        induction rest with
        | nil => simp at hg
        | cons e' r' ih' =>
          obtain ⟨j', v'⟩ := e'
          simp only [cellGet?] at hg
          split at hg
          · simp [*]
          · simp [ih' hg]
      have := hj i hmem
      rw [if_neg hij, if_neg (by omega), ih hr hg]

/-- Writing the same index twice keeps the second value. -/
@[simp] theorem cellSet_cellSet (c : Cells w) (i : Nat) (x y : BitVec w) :
    cellSet (cellSet c i x) i y = cellSet c i y := by
  induction c with
  | nil => simp [cellSet]
  | cons e rest ih =>
    obtain ⟨j, v⟩ := e
    simp only [cellSet]
    split
    · simp [cellSet]
    · split <;> simp_all [cellSet]

/-- Two canonical buffers that list the same values are the same list. -/
theorem cells_ext {c d : Cells w} (hc : CellsWf c) (hd : CellsWf d)
    (h : ∀ i, cellGet? c i = cellGet? d i) : c = d := by
  induction c generalizing d with
  | nil =>
    cases d with
    | nil => rfl
    | cons e r => have := h e.1; obtain ⟨j, v⟩ := e; simp [cellGet?] at this
  | cons e rest ih =>
    obtain ⟨j, v⟩ := e
    have none_below : ∀ {r : Cells w} {a : Nat}, (∀ k ∈ r.map Prod.fst, a < k) →
        ∀ b, b ≤ a → cellGet? r b = none := by
      intro r a hr b hb
      induction r with
      | nil => rfl
      | cons e' r' ih' =>
        obtain ⟨j', v'⟩ := e'
        have h1 : a < j' := hr j' (by simp)
        simp only [cellGet?]
        rw [if_neg (by omega)]
        exact ih' fun k hk => hr k (by simp [hk])
    cases d with
    | nil => have := h j; simp [cellGet?] at this
    | cons e' r' =>
      obtain ⟨j', v'⟩ := e'
      simp only [CellsWf, List.map_cons, List.pairwise_cons] at hc hd
      obtain ⟨hj, hr⟩ := hc
      obtain ⟨hj', hr'⟩ := hd
      have hjj : j = j' := by
        rcases Nat.lt_trichotomy j j' with hlt | heq | hgt
        · have := h j
          simp only [cellGet?, if_true] at this
          rw [if_neg (by omega), none_below hj' j (by omega)] at this
          simp at this
        · exact heq
        · have := h j'
          simp only [cellGet?, if_true] at this
          rw [if_neg (by omega), none_below hj j' (by omega)] at this
          simp at this
      subst hjj
      have hv : v = v' := by have := h j; simpa [cellGet?] using this
      subst hv
      congr 1
      refine ih hr hr' fun i => ?_
      by_cases hij : i = j
      · subst hij; rw [none_below hj i (le_refl i), none_below hj' i (le_refl i)]
      · have := h i; simpa [cellGet?, hij] using this

/-- After a write, the written element reads as the value and every other reads as before. -/
theorem getD_cellSet (c : Cells w) (i k : Nat) (x d : BitVec w) :
    (cellGet? (cellSet c i x) k).getD d = if k = i then x else (cellGet? c k).getD d := by
  split
  · rename_i h; subst h; simp
  · rename_i h; rw [cellGet?_cellSet_other c x h]

/-! One read-after-write lemma for each buffer. -/

theorem readIn_writeIn (s : State) (i k : Nat) (v : Byte) :
    readIn (writeIn s i v) k = if k = i then v else readIn s k :=
  getD_cellSet _ _ _ _ _

theorem readGray_writeGray (s : State) (i k : Nat) (v : Byte) :
    readGray (writeGray s i v) k = if k = i then v else readGray s k :=
  getD_cellSet _ _ _ _ _

theorem readOut0_writeOut0 (s : State) (i k : Nat) (v : Byte) :
    readOut0 (writeOut0 s i v) k = if k = i then v else readOut0 s k :=
  getD_cellSet _ _ _ _ _

theorem readOut1_writeOut1 (s : State) (i k : Nat) (v : Byte) :
    readOut1 (writeOut1 s i v) k = if k = i then v else readOut1 s k :=
  getD_cellSet _ _ _ _ _

theorem readOut2_writeOut2 (s : State) (i k : Nat) (v : Byte) :
    readOut2 (writeOut2 s i v) k = if k = i then v else readOut2 s k :=
  getD_cellSet _ _ _ _ _

theorem readOut3_writeOut3 (s : State) (i k : Nat) (v : Byte) :
    readOut3 (writeOut3 s i v) k = if k = i then v else readOut3 s k :=
  getD_cellSet _ _ _ _ _

theorem readAcc_writeAcc (s : State) (i k : Nat) (v : Int) :
    readAcc (writeAcc s i v) k = if k = i then BitVec.ofInt 16 v else readAcc s k :=
  getD_cellSet _ _ _ _ _

theorem readTex_writeTex (s : State) (i k : Nat) (v : BitVec 64) :
    readTex (writeTex s i v) k = if k = i then v else readTex s k :=
  getD_cellSet _ _ _ _ _

/-- An element of TEXRAW has NOISE_BITS bits, and 24 at most. -/
theorem texRawElement_toNat (c : Config) (k : Nat) :
    (texRawElement c k).toNat = k % 2 ^ c.noiseBits % 2 ^ 24 :=
  BitVec.toNat_ofNat _ _

theorem texRawElement_lt (c : Config) (k : Nat) :
    (texRawElement c k).toNat < 2 ^ c.noiseBits := by
  rw [texRawElement_toNat]
  exact lt_of_le_of_lt (Nat.mod_le _ _) (Nat.mod_lt _ (Nat.two_pow_pos _))

theorem texRawElement_idem (c : Config) (k : Nat) :
    texRawElement c (texRawElement c k).toNat = texRawElement c k := by
  apply BitVec.eq_of_toNat_eq
  rw [texRawElement_toNat, Nat.mod_eq_of_lt (texRawElement_lt c k),
    Nat.mod_eq_of_lt (texRawElement c k).isLt]

theorem readTexRaw_writeTexRaw (s : State) (i j k : Nat) :
    readTexRaw (writeTexRaw s i k) j =
      if j = i then texRawElement s.cfg k else readTexRaw s j := by
  have h : readCell (writeTexRaw s i k) .texRaw (writeTexRaw s i k).bufs.texRaw j =
      if j = i then texRawElement s.cfg k else readCell s .texRaw s.bufs.texRaw j :=
    getD_cellSet _ _ _ _ _
  simp only [readTexRaw, h]
  split
  · exact texRawElement_idem s.cfg k
  · rfl

/-! Every memory operation keeps the canonical form, and reset has it. -/

theorem writeIn_wf {s : State} (h : Memory.wf s.bufs) (i : Nat) (v : Byte) :
    Memory.wf (writeIn s i v).bufs :=
  ⟨cellSet_wf h.1 i v, h.2⟩

theorem writeGray_wf {s : State} (h : Memory.wf s.bufs) (i : Nat) (v : Byte) :
    Memory.wf (writeGray s i v).bufs :=
  ⟨h.1, cellSet_wf h.2.1 i v, h.2.2⟩

theorem writeOut0_wf {s : State} (h : Memory.wf s.bufs) (i : Nat) (v : Byte) :
    Memory.wf (writeOut0 s i v).bufs :=
  ⟨h.1, h.2.1, cellSet_wf h.2.2.1 i v, h.2.2.2⟩

theorem writeOut1_wf {s : State} (h : Memory.wf s.bufs) (i : Nat) (v : Byte) :
    Memory.wf (writeOut1 s i v).bufs :=
  ⟨h.1, h.2.1, h.2.2.1, cellSet_wf h.2.2.2.1 i v, h.2.2.2.2⟩

theorem writeOut2_wf {s : State} (h : Memory.wf s.bufs) (i : Nat) (v : Byte) :
    Memory.wf (writeOut2 s i v).bufs :=
  ⟨h.1, h.2.1, h.2.2.1, h.2.2.2.1, cellSet_wf h.2.2.2.2.1 i v, h.2.2.2.2.2⟩

theorem writeOut3_wf {s : State} (h : Memory.wf s.bufs) (i : Nat) (v : Byte) :
    Memory.wf (writeOut3 s i v).bufs :=
  ⟨h.1, h.2.1, h.2.2.1, h.2.2.2.1, h.2.2.2.2.1, cellSet_wf h.2.2.2.2.2.1 i v, h.2.2.2.2.2.2⟩

theorem writeAcc_wf {s : State} (h : Memory.wf s.bufs) (i : Nat) (v : Int) :
    Memory.wf (writeAcc s i v).bufs :=
  ⟨h.1, h.2.1, h.2.2.1, h.2.2.2.1, h.2.2.2.2.1, h.2.2.2.2.2.1,
    cellSet_wf h.2.2.2.2.2.2.1 i _, h.2.2.2.2.2.2.2⟩

theorem writeTex_wf {s : State} (h : Memory.wf s.bufs) (i : Nat) (v : BitVec 64) :
    Memory.wf (writeTex s i v).bufs :=
  ⟨h.1, h.2.1, h.2.2.1, h.2.2.2.1, h.2.2.2.2.1, h.2.2.2.2.2.1, h.2.2.2.2.2.2.1,
    cellSet_wf h.2.2.2.2.2.2.2.1 i v, h.2.2.2.2.2.2.2.2⟩

theorem writeTexRaw_wf {s : State} (h : Memory.wf s.bufs) (i k : Nat) :
    Memory.wf (writeTexRaw s i k).bufs :=
  ⟨h.1, h.2.1, h.2.2.1, h.2.2.2.1, h.2.2.2.2.1, h.2.2.2.2.2.1, h.2.2.2.2.2.2.1,
    h.2.2.2.2.2.2.2.1, cellSet_wf h.2.2.2.2.2.2.2.2 i _⟩

/-- The memory after reset has the canonical form. -/
theorem reset_memory_wf : Memory.wf State.reset.bufs := by
  decide

end Sys2Proof.Machine
end

