-- ==== Sys2Proof/Laws/State.lean ====
section
/-! SUPPORT. One lemma for each field of State and each named update: what the update writes there,
or that it leaves the field as it was. No later proof unfolds a record update. -/

namespace Sys2Proof.Machine

@[simp] theorem reject_cfg (c : ErrorCode) (s : State) :
    (reject c s).cfg = s.cfg :=
  rfl

@[simp] theorem reject_regs (c : ErrorCode) (s : State) :
    (reject c s).regs = s.regs :=
  rfl

@[simp] theorem reject_status (c : ErrorCode) (s : State) :
    (reject c s).status = { s.status with err := true, errCode := c.number } :=
  rfl

@[simp] theorem reject_res (c : ErrorCode) (s : State) :
    (reject c s).res = s.res :=
  rfl

@[simp] theorem reject_bufs (c : ErrorCode) (s : State) :
    (reject c s).bufs = s.bufs :=
  rfl

@[simp] theorem reject_seq (c : ErrorCode) (s : State) :
    (reject c s).seq = s.seq :=
  rfl

@[simp] theorem reject_env (c : ErrorCode) (s : State) :
    (reject c s).env = s.env :=
  rfl

@[simp] theorem clearError_cfg (s : State) :
    (clearError s).cfg = s.cfg :=
  rfl

@[simp] theorem clearError_regs (s : State) :
    (clearError s).regs = s.regs :=
  rfl

@[simp] theorem clearError_status (s : State) :
    (clearError s).status = { s.status with err := false, errCode := 0 } :=
  rfl

@[simp] theorem clearError_res (s : State) :
    (clearError s).res = s.res :=
  rfl

@[simp] theorem clearError_bufs (s : State) :
    (clearError s).bufs = s.bufs :=
  rfl

@[simp] theorem clearError_seq (s : State) :
    (clearError s).seq = s.seq :=
  rfl

@[simp] theorem clearError_env (s : State) :
    (clearError s).env = s.env :=
  rfl

@[simp] theorem markWriteBusy_cfg (s : State) :
    (markWriteBusy s).cfg = s.cfg :=
  rfl

@[simp] theorem markWriteBusy_regs (s : State) :
    (markWriteBusy s).regs = s.regs :=
  rfl

@[simp] theorem markWriteBusy_status (s : State) :
    (markWriteBusy s).status = { s.status with wrbusy := true } :=
  rfl

@[simp] theorem markWriteBusy_res (s : State) :
    (markWriteBusy s).res = s.res :=
  rfl

@[simp] theorem markWriteBusy_bufs (s : State) :
    (markWriteBusy s).bufs = s.bufs :=
  rfl

@[simp] theorem markWriteBusy_seq (s : State) :
    (markWriteBusy s).seq = s.seq :=
  rfl

@[simp] theorem markWriteBusy_env (s : State) :
    (markWriteBusy s).env = s.env :=
  rfl

@[simp] theorem resetBlock_cfg (s : State) :
    (resetBlock s).cfg = s.cfg :=
  rfl

@[simp] theorem resetBlock_regs (s : State) :
    (resetBlock s).regs = .reset :=
  rfl

@[simp] theorem resetBlock_status (s : State) :
    (resetBlock s).status = .reset :=
  rfl

@[simp] theorem resetBlock_res (s : State) :
    (resetBlock s).res = .reset :=
  rfl

@[simp] theorem resetBlock_bufs (s : State) :
    (resetBlock s).bufs = .reset :=
  rfl

@[simp] theorem resetBlock_seq (s : State) :
    (resetBlock s).seq = .reset :=
  rfl

@[simp] theorem resetBlock_env (s : State) :
    (resetBlock s).env = { s.env with epoch := s.env.epoch + 1 } :=
  rfl

@[simp] theorem writeIn_cfg (s : State) (i : Nat) (v : Byte) :
    (writeIn s i v).cfg = s.cfg :=
  rfl

@[simp] theorem writeIn_regs (s : State) (i : Nat) (v : Byte) :
    (writeIn s i v).regs = s.regs :=
  rfl

@[simp] theorem writeIn_status (s : State) (i : Nat) (v : Byte) :
    (writeIn s i v).status = s.status :=
  rfl

@[simp] theorem writeIn_res (s : State) (i : Nat) (v : Byte) :
    (writeIn s i v).res = s.res :=
  rfl

@[simp] theorem writeIn_bufs (s : State) (i : Nat) (v : Byte) :
    (writeIn s i v).bufs = { s.bufs with inp := cellSet s.bufs.inp i v } :=
  rfl

@[simp] theorem writeIn_seq (s : State) (i : Nat) (v : Byte) :
    (writeIn s i v).seq = s.seq :=
  rfl

@[simp] theorem writeIn_env (s : State) (i : Nat) (v : Byte) :
    (writeIn s i v).env = s.env :=
  rfl

@[simp] theorem writeGray_cfg (s : State) (i : Nat) (v : Byte) :
    (writeGray s i v).cfg = s.cfg :=
  rfl

@[simp] theorem writeGray_regs (s : State) (i : Nat) (v : Byte) :
    (writeGray s i v).regs = s.regs :=
  rfl

@[simp] theorem writeGray_status (s : State) (i : Nat) (v : Byte) :
    (writeGray s i v).status = s.status :=
  rfl

@[simp] theorem writeGray_res (s : State) (i : Nat) (v : Byte) :
    (writeGray s i v).res = s.res :=
  rfl

@[simp] theorem writeGray_bufs (s : State) (i : Nat) (v : Byte) :
    (writeGray s i v).bufs = { s.bufs with gray := cellSet s.bufs.gray i v } :=
  rfl

@[simp] theorem writeGray_seq (s : State) (i : Nat) (v : Byte) :
    (writeGray s i v).seq = s.seq :=
  rfl

@[simp] theorem writeGray_env (s : State) (i : Nat) (v : Byte) :
    (writeGray s i v).env = s.env :=
  rfl

@[simp] theorem writeOut0_cfg (s : State) (i : Nat) (v : Byte) :
    (writeOut0 s i v).cfg = s.cfg :=
  rfl

@[simp] theorem writeOut0_regs (s : State) (i : Nat) (v : Byte) :
    (writeOut0 s i v).regs = s.regs :=
  rfl

@[simp] theorem writeOut0_status (s : State) (i : Nat) (v : Byte) :
    (writeOut0 s i v).status = s.status :=
  rfl

@[simp] theorem writeOut0_res (s : State) (i : Nat) (v : Byte) :
    (writeOut0 s i v).res = s.res :=
  rfl

@[simp] theorem writeOut0_bufs (s : State) (i : Nat) (v : Byte) :
    (writeOut0 s i v).bufs = { s.bufs with out0 := cellSet s.bufs.out0 i v } :=
  rfl

@[simp] theorem writeOut0_seq (s : State) (i : Nat) (v : Byte) :
    (writeOut0 s i v).seq = s.seq :=
  rfl

@[simp] theorem writeOut0_env (s : State) (i : Nat) (v : Byte) :
    (writeOut0 s i v).env = s.env :=
  rfl

@[simp] theorem writeOut1_cfg (s : State) (i : Nat) (v : Byte) :
    (writeOut1 s i v).cfg = s.cfg :=
  rfl

@[simp] theorem writeOut1_regs (s : State) (i : Nat) (v : Byte) :
    (writeOut1 s i v).regs = s.regs :=
  rfl

@[simp] theorem writeOut1_status (s : State) (i : Nat) (v : Byte) :
    (writeOut1 s i v).status = s.status :=
  rfl

@[simp] theorem writeOut1_res (s : State) (i : Nat) (v : Byte) :
    (writeOut1 s i v).res = s.res :=
  rfl

@[simp] theorem writeOut1_bufs (s : State) (i : Nat) (v : Byte) :
    (writeOut1 s i v).bufs = { s.bufs with out1 := cellSet s.bufs.out1 i v } :=
  rfl

@[simp] theorem writeOut1_seq (s : State) (i : Nat) (v : Byte) :
    (writeOut1 s i v).seq = s.seq :=
  rfl

@[simp] theorem writeOut1_env (s : State) (i : Nat) (v : Byte) :
    (writeOut1 s i v).env = s.env :=
  rfl

@[simp] theorem writeOut2_cfg (s : State) (i : Nat) (v : Byte) :
    (writeOut2 s i v).cfg = s.cfg :=
  rfl

@[simp] theorem writeOut2_regs (s : State) (i : Nat) (v : Byte) :
    (writeOut2 s i v).regs = s.regs :=
  rfl

@[simp] theorem writeOut2_status (s : State) (i : Nat) (v : Byte) :
    (writeOut2 s i v).status = s.status :=
  rfl

@[simp] theorem writeOut2_res (s : State) (i : Nat) (v : Byte) :
    (writeOut2 s i v).res = s.res :=
  rfl

@[simp] theorem writeOut2_bufs (s : State) (i : Nat) (v : Byte) :
    (writeOut2 s i v).bufs = { s.bufs with out2 := cellSet s.bufs.out2 i v } :=
  rfl

@[simp] theorem writeOut2_seq (s : State) (i : Nat) (v : Byte) :
    (writeOut2 s i v).seq = s.seq :=
  rfl

@[simp] theorem writeOut2_env (s : State) (i : Nat) (v : Byte) :
    (writeOut2 s i v).env = s.env :=
  rfl

@[simp] theorem writeOut3_cfg (s : State) (i : Nat) (v : Byte) :
    (writeOut3 s i v).cfg = s.cfg :=
  rfl

@[simp] theorem writeOut3_regs (s : State) (i : Nat) (v : Byte) :
    (writeOut3 s i v).regs = s.regs :=
  rfl

@[simp] theorem writeOut3_status (s : State) (i : Nat) (v : Byte) :
    (writeOut3 s i v).status = s.status :=
  rfl

@[simp] theorem writeOut3_res (s : State) (i : Nat) (v : Byte) :
    (writeOut3 s i v).res = s.res :=
  rfl

@[simp] theorem writeOut3_bufs (s : State) (i : Nat) (v : Byte) :
    (writeOut3 s i v).bufs = { s.bufs with out3 := cellSet s.bufs.out3 i v } :=
  rfl

@[simp] theorem writeOut3_seq (s : State) (i : Nat) (v : Byte) :
    (writeOut3 s i v).seq = s.seq :=
  rfl

@[simp] theorem writeOut3_env (s : State) (i : Nat) (v : Byte) :
    (writeOut3 s i v).env = s.env :=
  rfl

@[simp] theorem writeAcc_cfg (s : State) (i : Nat) (v : Int) :
    (writeAcc s i v).cfg = s.cfg :=
  rfl

@[simp] theorem writeAcc_regs (s : State) (i : Nat) (v : Int) :
    (writeAcc s i v).regs = s.regs :=
  rfl

@[simp] theorem writeAcc_status (s : State) (i : Nat) (v : Int) :
    (writeAcc s i v).status = s.status :=
  rfl

@[simp] theorem writeAcc_res (s : State) (i : Nat) (v : Int) :
    (writeAcc s i v).res = s.res :=
  rfl

@[simp] theorem writeAcc_bufs (s : State) (i : Nat) (v : Int) :
    (writeAcc s i v).bufs = { s.bufs with acc := cellSet s.bufs.acc i (BitVec.ofInt 16 v) } :=
  rfl

@[simp] theorem writeAcc_seq (s : State) (i : Nat) (v : Int) :
    (writeAcc s i v).seq = s.seq :=
  rfl

@[simp] theorem writeAcc_env (s : State) (i : Nat) (v : Int) :
    (writeAcc s i v).env = s.env :=
  rfl

@[simp] theorem writeTex_cfg (s : State) (i : Nat) (v : BitVec 64) :
    (writeTex s i v).cfg = s.cfg :=
  rfl

@[simp] theorem writeTex_regs (s : State) (i : Nat) (v : BitVec 64) :
    (writeTex s i v).regs = s.regs :=
  rfl

@[simp] theorem writeTex_status (s : State) (i : Nat) (v : BitVec 64) :
    (writeTex s i v).status = s.status :=
  rfl

@[simp] theorem writeTex_res (s : State) (i : Nat) (v : BitVec 64) :
    (writeTex s i v).res = s.res :=
  rfl

@[simp] theorem writeTex_bufs (s : State) (i : Nat) (v : BitVec 64) :
    (writeTex s i v).bufs = { s.bufs with tex := cellSet s.bufs.tex i v } :=
  rfl

@[simp] theorem writeTex_seq (s : State) (i : Nat) (v : BitVec 64) :
    (writeTex s i v).seq = s.seq :=
  rfl

@[simp] theorem writeTex_env (s : State) (i : Nat) (v : BitVec 64) :
    (writeTex s i v).env = s.env :=
  rfl

@[simp] theorem writeTexRaw_cfg (s : State) (i k : Nat) :
    (writeTexRaw s i k).cfg = s.cfg :=
  rfl

@[simp] theorem writeTexRaw_regs (s : State) (i k : Nat) :
    (writeTexRaw s i k).regs = s.regs :=
  rfl

@[simp] theorem writeTexRaw_status (s : State) (i k : Nat) :
    (writeTexRaw s i k).status = s.status :=
  rfl

@[simp] theorem writeTexRaw_res (s : State) (i k : Nat) :
    (writeTexRaw s i k).res = s.res :=
  rfl

@[simp] theorem writeTexRaw_bufs (s : State) (i k : Nat) :
    (writeTexRaw s i k).bufs = { s.bufs with texRaw := cellSet s.bufs.texRaw i (texRawElement s.cfg k) } :=
  rfl

@[simp] theorem writeTexRaw_seq (s : State) (i k : Nat) :
    (writeTexRaw s i k).seq = s.seq :=
  rfl

@[simp] theorem writeTexRaw_env (s : State) (i k : Nat) :
    (writeTexRaw s i k).env = s.env :=
  rfl

@[simp] theorem addAcc_cfg (s : State) (p : Nat) (d : Int) :
    (addAcc s p d).cfg = s.cfg :=
  rfl

@[simp] theorem addAcc_regs (s : State) (p : Nat) (d : Int) :
    (addAcc s p d).regs = s.regs :=
  rfl

@[simp] theorem addAcc_status (s : State) (p : Nat) (d : Int) :
    (addAcc s p d).status = s.status :=
  rfl

@[simp] theorem addAcc_res (s : State) (p : Nat) (d : Int) :
    (addAcc s p d).res = s.res :=
  rfl

@[simp] theorem addAcc_seq (s : State) (p : Nat) (d : Int) :
    (addAcc s p d).seq = s.seq :=
  rfl

@[simp] theorem addAcc_env (s : State) (p : Nat) (d : Int) :
    (addAcc s p d).env = s.env :=
  rfl

@[simp] theorem startTexNorm_cfg (s : State) :
    (startTexNorm s).cfg = s.cfg :=
  rfl

@[simp] theorem startTexNorm_regs (s : State) :
    (startTexNorm s).regs = s.regs :=
  rfl

@[simp] theorem startTexNorm_status (s : State) :
    (startTexNorm s).status = s.status :=
  rfl

@[simp] theorem startTexNorm_res (s : State) :
    (startTexNorm s).res = { s.res with texRange := s.seq.bmax - s.seq.bmin } :=
  rfl

@[simp] theorem startTexNorm_bufs (s : State) :
    (startTexNorm s).bufs = s.bufs :=
  rfl

@[simp] theorem startTexNorm_seq (s : State) :
    (startTexNorm s).seq = s.seq :=
  rfl

@[simp] theorem startTexNorm_env (s : State) :
    (startTexNorm s).env = s.env :=
  rfl

@[simp] theorem finishTexNorm_cfg (s : State) :
    (finishTexNorm s).cfg = s.cfg :=
  rfl

@[simp] theorem finishTexNorm_regs (s : State) :
    (finishTexNorm s).regs = s.regs :=
  rfl

@[simp] theorem finishTexNorm_status (s : State) :
    (finishTexNorm s).status = { s.status with texValid := true } :=
  rfl

@[simp] theorem finishTexNorm_res (s : State) :
    (finishTexNorm s).res = s.res :=
  rfl

@[simp] theorem finishTexNorm_bufs (s : State) :
    (finishTexNorm s).bufs = s.bufs :=
  rfl

@[simp] theorem finishTexNorm_seq (s : State) :
    (finishTexNorm s).seq = s.seq :=
  rfl

@[simp] theorem finishTexNorm_env (s : State) :
    (finishTexNorm s).env = s.env :=
  rfl

@[simp] theorem pointAtPhase_cfg (ph : Phase) (pos : Nat) (s : State) :
    (pointAtPhase ph pos s).cfg = s.cfg :=
  rfl

@[simp] theorem pointAtPhase_regs (ph : Phase) (pos : Nat) (s : State) :
    (pointAtPhase ph pos s).regs = s.regs :=
  rfl

@[simp] theorem pointAtPhase_status (ph : Phase) (pos : Nat) (s : State) :
    (pointAtPhase ph pos s).status = s.status :=
  rfl

@[simp] theorem pointAtPhase_res (ph : Phase) (pos : Nat) (s : State) :
    (pointAtPhase ph pos s).res = s.res :=
  rfl

@[simp] theorem pointAtPhase_bufs (ph : Phase) (pos : Nat) (s : State) :
    (pointAtPhase ph pos s).bufs = s.bufs :=
  rfl

@[simp] theorem pointAtPhase_seq (ph : Phase) (pos : Nat) (s : State) :
    (pointAtPhase ph pos s).seq = { s.seq with phase := ph, pos := pos, entered := false, sy := 0, sx := firstColumn ph } :=
  rfl

@[simp] theorem pointAtPhase_env (ph : Phase) (pos : Nat) (s : State) :
    (pointAtPhase ph pos s).env = s.env :=
  rfl

@[simp] theorem accept_cfg (i : Instr) (s : State) :
    (accept i s).cfg = s.cfg :=
  rfl

@[simp] theorem accept_regs (i : Instr) (s : State) :
    (accept i s).regs = s.regs :=
  rfl

@[simp] theorem accept_status (i : Instr) (s : State) :
    (accept i s).status = acceptStatus s.status :=
  rfl

@[simp] theorem accept_res (i : Instr) (s : State) :
    (accept i s).res = s.res :=
  rfl

@[simp] theorem accept_bufs (i : Instr) (s : State) :
    (accept i s).bufs = s.bufs :=
  rfl

@[simp] theorem accept_seq (i : Instr) (s : State) :
    (accept i s).seq = { s.seq with
        curOp := opCode i, phase := (phaseList s.cfg i).headD .idle, pos := 0, entered := false
        sy := 0, sx := firstColumn ((phaseList s.cfg i).headD .idle) } :=
  rfl

@[simp] theorem accept_env (i : Instr) (s : State) :
    (accept i s).env = s.env :=
  rfl

@[simp] theorem complete_cfg (s : State) :
    (complete s).cfg = s.cfg :=
  rfl

@[simp] theorem complete_regs (s : State) :
    (complete s).regs = s.regs :=
  rfl

@[simp] theorem complete_status (s : State) :
    (complete s).status = completeStatus s.seq.curOp s.status :=
  rfl

@[simp] theorem complete_res (s : State) :
    (complete s).res = s.res :=
  rfl

@[simp] theorem complete_bufs (s : State) :
    (complete s).bufs = s.bufs :=
  rfl

@[simp] theorem complete_seq (s : State) :
    (complete s).seq = { s.seq with phase := .idle } :=
  rfl

@[simp] theorem complete_env (s : State) :
    (complete s).env = s.env :=
  rfl

@[simp] theorem advanceBufAddr_cfg (s : State) :
    (advanceBufAddr s).cfg = s.cfg :=
  rfl

@[simp] theorem advanceBufAddr_regs (s : State) :
    (advanceBufAddr s).regs = { s.regs with bufAddr := s.regs.bufAddr + 1 } :=
  rfl

@[simp] theorem advanceBufAddr_status (s : State) :
    (advanceBufAddr s).status = s.status :=
  rfl

@[simp] theorem advanceBufAddr_res (s : State) :
    (advanceBufAddr s).res = s.res :=
  rfl

@[simp] theorem advanceBufAddr_bufs (s : State) :
    (advanceBufAddr s).bufs = s.bufs :=
  rfl

@[simp] theorem advanceBufAddr_seq (s : State) :
    (advanceBufAddr s).seq = s.seq :=
  rfl

@[simp] theorem advanceBufAddr_env (s : State) :
    (advanceBufAddr s).env = s.env :=
  rfl

@[simp] theorem placeCommand_cfg (w : Word) (s : State) :
    (placeCommand w s).cfg = s.cfg :=
  rfl

@[simp] theorem placeCommand_regs (w : Word) (s : State) :
    (placeCommand w s).regs = s.regs :=
  rfl

@[simp] theorem placeCommand_status (w : Word) (s : State) :
    (placeCommand w s).status = s.status :=
  rfl

@[simp] theorem placeCommand_res (w : Word) (s : State) :
    (placeCommand w s).res = s.res :=
  rfl

@[simp] theorem placeCommand_bufs (w : Word) (s : State) :
    (placeCommand w s).bufs = s.bufs :=
  rfl

@[simp] theorem placeCommand_seq (w : Word) (s : State) :
    (placeCommand w s).seq = s.seq :=
  rfl

@[simp] theorem placeCommand_env (w : Word) (s : State) :
    (placeCommand w s).env = { s.env with inputs := .host (commandWrite s.cfg w) false :: s.env.inputs } :=
  rfl

@[simp] theorem reseed_cfg (s : State) :
    (reseed s).cfg = s.cfg := by
  unfold reseed; split <;> rfl

@[simp] theorem reseed_regs (s : State) :
    (reseed s).regs = s.regs := by
  unfold reseed; split <;> rfl

@[simp] theorem reseed_status (s : State) :
    (reseed s).status = s.status := by
  unfold reseed; split <;> rfl

@[simp] theorem reseed_bufs (s : State) :
    (reseed s).bufs = s.bufs := by
  unfold reseed; split <;> rfl

@[simp] theorem noteExtremes_cfg (t : Nat) (b : BitVec 64) (s : State) :
    (noteExtremes t b s).cfg = s.cfg := by
  unfold noteExtremes; split <;> rfl

@[simp] theorem noteExtremes_regs (t : Nat) (b : BitVec 64) (s : State) :
    (noteExtremes t b s).regs = s.regs := by
  unfold noteExtremes; split <;> rfl

@[simp] theorem noteExtremes_status (t : Nat) (b : BitVec 64) (s : State) :
    (noteExtremes t b s).status = s.status := by
  unfold noteExtremes; split <;> rfl

@[simp] theorem noteExtremes_res (t : Nat) (b : BitVec 64) (s : State) :
    (noteExtremes t b s).res = s.res := by
  unfold noteExtremes; split <;> rfl

@[simp] theorem noteExtremes_bufs (t : Nat) (b : BitVec 64) (s : State) :
    (noteExtremes t b s).bufs = s.bufs := by
  unfold noteExtremes; split <;> rfl

@[simp] theorem noteExtremes_env (t : Nat) (b : BitVec 64) (s : State) :
    (noteExtremes t b s).env = s.env := by
  unfold noteExtremes; split <;> rfl

@[simp] theorem startTexFill_cfg (s : State) :
    (startTexFill s).cfg = s.cfg := by
  simp [startTexFill]

@[simp] theorem startTexFill_regs (s : State) :
    (startTexFill s).regs = s.regs := by
  simp [startTexFill]

@[simp] theorem startTexFill_bufs (s : State) :
    (startTexFill s).bufs = s.bufs := by
  simp [startTexFill]

@[simp] theorem startTexFill_status (s : State) :
    (startTexFill s).status = { s.status with texValid := false } := by
  simp [startTexFill]

theorem beginAccess_read (o : Bool) (s : State) :
    beginAccess .read o s = { s with env := { s.env with overlap := o } } :=
  rfl

theorem beginAccess_write (v : Word) (o : Bool) (s : State) :
    beginAccess (.write v) o s =
      { s with env := { s.env with overlap := o, writes := s.env.writes + 1 } } :=
  rfl

@[simp] theorem beginAccess_cfg (op : BusOp) (o : Bool) (s : State) :
    (beginAccess op o s).cfg = s.cfg := by
  cases op <;> rfl

@[simp] theorem beginAccess_regs (op : BusOp) (o : Bool) (s : State) :
    (beginAccess op o s).regs = s.regs := by
  cases op <;> rfl

@[simp] theorem beginAccess_status (op : BusOp) (o : Bool) (s : State) :
    (beginAccess op o s).status = s.status := by
  cases op <;> rfl

@[simp] theorem beginAccess_res (op : BusOp) (o : Bool) (s : State) :
    (beginAccess op o s).res = s.res := by
  cases op <;> rfl

@[simp] theorem beginAccess_bufs (op : BusOp) (o : Bool) (s : State) :
    (beginAccess op o s).bufs = s.bufs := by
  cases op <;> rfl

@[simp] theorem beginAccess_seq (op : BusOp) (o : Bool) (s : State) :
    (beginAccess op o s).seq = s.seq := by
  cases op <;> rfl

@[simp] theorem beginAccess_overlap (op : BusOp) (o : Bool) (s : State) :
    (beginAccess op o s).env.overlap = o := by
  cases op <;> rfl

@[simp] theorem beginAccess_inputs (op : BusOp) (o : Bool) (s : State) :
    (beginAccess op o s).env.inputs = s.env.inputs := by
  cases op <;> rfl

@[simp] theorem beginAccess_samples (op : BusOp) (o : Bool) (s : State) :
    (beginAccess op o s).env.samples = s.env.samples := by
  cases op <;> rfl

@[simp] theorem beginAccess_epoch (op : BusOp) (o : Bool) (s : State) :
    (beginAccess op o s).env.epoch = s.env.epoch := by
  cases op <;> rfl

end Sys2Proof.Machine
end

