-- ==== Sys2Proof/Laws/Elements.lean ====
section
/-! SUPPORT. What one element of a phase, and a phase's whole scan, leave unchanged; and the raster
scan as a count over linear indices. -/

namespace Sys2Proof.Machine

variable (ph : Phase) (y x : Nat) (s : State)

/-! An element writes buffers, BMIN and BMAX, and nothing else. -/

@[simp] theorem stepElement_cfg : (stepElement ph y x s).cfg = s.cfg := by
  cases ph <;> simp [stepElement, stepGrayconv, stepBayer, stepRandom, stepFsInit, stepFsScan,
    stepFsBorder, stepTexFill, stepTexBlur, stepTexNorm, stepBlueDither]

@[simp] theorem stepElement_regs : (stepElement ph y x s).regs = s.regs := by
  cases ph <;> simp [stepElement, stepGrayconv, stepBayer, stepRandom, stepFsInit, stepFsScan,
    stepFsBorder, stepTexFill, stepTexBlur, stepTexNorm, stepBlueDither]

@[simp] theorem stepElement_status : (stepElement ph y x s).status = s.status := by
  cases ph <;> simp [stepElement, stepGrayconv, stepBayer, stepRandom, stepFsInit, stepFsScan,
    stepFsBorder, stepTexFill, stepTexBlur, stepTexNorm, stepBlueDither]

@[simp] theorem stepElement_res : (stepElement ph y x s).res = s.res := by
  cases ph <;> simp [stepElement, stepGrayconv, stepBayer, stepRandom, stepFsInit, stepFsScan,
    stepFsBorder, stepTexFill, stepTexBlur, stepTexNorm, stepBlueDither]

@[simp] theorem stepElement_env : (stepElement ph y x s).env = s.env := by
  cases ph <;> simp [stepElement, stepGrayconv, stepBayer, stepRandom, stepFsInit, stepFsScan,
    stepFsBorder, stepTexFill, stepTexBlur, stepTexNorm, stepBlueDither]

/-- Only BMIN and BMAX of the hidden registers change, and only in phase TEX_BLUR. -/
theorem stepElement_seq :
    ∃ lo hi, (stepElement ph y x s).seq = { s.seq with bmin := lo, bmax := hi } ∧
      (ph ≠ .texBlur → lo = s.seq.bmin ∧ hi = s.seq.bmax) := by
  cases ph
  case texBlur =>
    simp only [stepElement, stepTexBlur, noteExtremes]
    split
    · exact ⟨_, _, rfl, fun h => absurd rfl h⟩
    · exact ⟨_, _, rfl, fun h => absurd rfl h⟩
  all_goals
    exact ⟨s.seq.bmin, s.seq.bmax, by
      simp [stepElement, stepGrayconv, stepBayer, stepRandom, stepFsInit, stepFsScan,
        stepFsBorder, stepTexFill, stepTexNorm, stepBlueDither], fun _ => ⟨rfl, rfl⟩⟩

/-- No phase writes IN. -/
@[simp] theorem stepElement_inp : (stepElement ph y x s).bufs.inp = s.bufs.inp := by
  cases ph <;> simp [stepElement, stepGrayconv, stepBayer, stepRandom, stepFsInit, stepFsScan,
    stepFsBorder, stepTexFill, stepTexBlur, stepTexNorm, stepBlueDither, addAcc]

/-- Only GRAYCONV writes GRAY. -/
theorem stepElement_gray (h : ph ≠ .grayconv) :
    (stepElement ph y x s).bufs.gray = s.bufs.gray := by
  cases ph <;> simp_all [stepElement, stepBayer, stepRandom, stepFsInit, stepFsScan,
    stepFsBorder, stepTexFill, stepTexBlur, stepTexNorm, stepBlueDither, addAcc]

/-- Only BAYER writes OUT0. -/
theorem stepElement_out0 (h : ph ≠ .bayer) :
    (stepElement ph y x s).bufs.out0 = s.bufs.out0 := by
  cases ph <;> simp_all [stepElement, stepGrayconv, stepRandom, stepFsInit, stepFsScan,
    stepFsBorder, stepTexFill, stepTexBlur, stepTexNorm, stepBlueDither, addAcc]

/-- Only RANDOM writes OUT1. -/
theorem stepElement_out1 (h : ph ≠ .random) :
    (stepElement ph y x s).bufs.out1 = s.bufs.out1 := by
  cases ph <;> simp_all [stepElement, stepGrayconv, stepBayer, stepFsInit, stepFsScan,
    stepFsBorder, stepTexFill, stepTexBlur, stepTexNorm, stepBlueDither, addAcc]

/-- Only the error-diffusion phases write OUT2. -/
theorem stepElement_out2 (h : ph ≠ .fsInit) (h' : ph ≠ .fsScan) (h'' : ph ≠ .fsBorder) :
    (stepElement ph y x s).bufs.out2 = s.bufs.out2 := by
  cases ph <;> simp_all [stepElement, stepGrayconv, stepBayer, stepRandom,
    stepTexFill, stepTexBlur, stepTexNorm, stepBlueDither]

/-- Only BLUE_DITHER writes OUT3. -/
theorem stepElement_out3 (h : ph ≠ .blueDither) :
    (stepElement ph y x s).bufs.out3 = s.bufs.out3 := by
  cases ph <;> simp_all [stepElement, stepGrayconv, stepBayer, stepRandom, stepFsInit,
    stepFsScan, stepFsBorder, stepTexFill, stepTexBlur, stepTexNorm, addAcc]

/-- Only FS_INIT and FS_SCAN write ACC. -/
theorem stepElement_acc (h : ph ≠ .fsInit) (h' : ph ≠ .fsScan) :
    (stepElement ph y x s).bufs.acc = s.bufs.acc := by
  cases ph <;> simp_all [stepElement, stepGrayconv, stepBayer, stepRandom, stepFsBorder,
    stepTexFill, stepTexBlur, stepTexNorm, stepBlueDither]

/-- Only TEX_BLUR and TEX_NORM write TEX. -/
theorem stepElement_tex (h : ph ≠ .texBlur) (h' : ph ≠ .texNorm) :
    (stepElement ph y x s).bufs.tex = s.bufs.tex := by
  cases ph <;> simp_all [stepElement, stepGrayconv, stepBayer, stepRandom, stepFsInit,
    stepFsScan, stepFsBorder, stepTexFill, stepBlueDither, addAcc]

/-- Only TEX_FILL writes TEXRAW. -/
theorem stepElement_texRaw (h : ph ≠ .texFill) :
    (stepElement ph y x s).bufs.texRaw = s.bufs.texRaw := by
  cases ph <;> simp_all [stepElement, stepGrayconv, stepBayer, stepRandom, stepFsInit,
    stepFsScan, stepFsBorder, stepTexBlur, stepTexNorm, stepBlueDither, addAcc]

/-- An element keeps the canonical form of memory. -/
theorem stepElement_wf (h : Memory.wf s.bufs) : Memory.wf (stepElement ph y x s).bufs := by
  cases ph
  case idle => exact h
  case grayconv => exact writeGray_wf h _ _
  case bayer => exact writeOut0_wf h _ _
  case random => exact writeOut1_wf h _ _
  case fsInit => exact writeOut2_wf (writeAcc_wf h _ _) _ _
  case fsScan =>
    exact writeAcc_wf (writeAcc_wf (writeAcc_wf (writeAcc_wf
      (writeOut2_wf (writeAcc_wf h _ _) _ _) _ _) _ _) _ _) _ _
  case fsBorder => exact writeOut2_wf h _ _
  case texFill => exact writeTexRaw_wf h _ _
  case texBlur =>
    simp only [stepElement, stepTexBlur, noteExtremes_bufs]
    exact writeTex_wf h _ _
  case texNorm => exact writeTex_wf h _ _
  case blueDither => exact writeOut3_wf h _ _

/-! A scan over any list of elements. -/

/-- A property that every element keeps holds after a scan. -/
theorem runElements_keeps {P : State → Prop} (l : List (Nat × Nat)) {s : State}
    (step : ∀ y x t, P t → P (stepElement ph y x t)) (h : P s) : P (runElements ph l s) := by
  induction l generalizing s with
  | nil => exact h
  | cons e r ih => exact ih (step e.1 e.2 s h)

@[simp] theorem runElements_nil : runElements ph [] s = s := rfl

@[simp] theorem runElements_cons (e : Nat × Nat) (l : List (Nat × Nat)) :
    runElements ph (e :: l) s = runElements ph l (stepElement ph e.1 e.2 s) := rfl

theorem runElements_append (l m : List (Nat × Nat)) :
    runElements ph (l ++ m) s = runElements ph m (runElements ph l s) := by
  simp [runElements]

@[simp] theorem runElements_cfg (l : List (Nat × Nat)) : (runElements ph l s).cfg = s.cfg :=
  runElements_keeps ph (P := fun t => t.cfg = s.cfg) l (fun y x t h => by simp [h]) rfl

@[simp] theorem runElements_regs (l : List (Nat × Nat)) : (runElements ph l s).regs = s.regs :=
  runElements_keeps ph (P := fun t => t.regs = s.regs) l (fun y x t h => by simp [h]) rfl

@[simp] theorem runElements_status (l : List (Nat × Nat)) :
    (runElements ph l s).status = s.status :=
  runElements_keeps ph (P := fun t => t.status = s.status) l (fun y x t h => by simp [h]) rfl

@[simp] theorem runElements_res (l : List (Nat × Nat)) : (runElements ph l s).res = s.res :=
  runElements_keeps ph (P := fun t => t.res = s.res) l (fun y x t h => by simp [h]) rfl

@[simp] theorem runElements_env (l : List (Nat × Nat)) : (runElements ph l s).env = s.env :=
  runElements_keeps ph (P := fun t => t.env = s.env) l (fun y x t h => by simp [h]) rfl

@[simp] theorem runElements_inp (l : List (Nat × Nat)) :
    (runElements ph l s).bufs.inp = s.bufs.inp :=
  runElements_keeps ph (P := fun t => t.bufs.inp = s.bufs.inp) l (fun y x t h => by simp [h]) rfl

/-- Only TEX_BLUR changes a hidden register while it scans. -/
theorem runElements_seq (l : List (Nat × Nat)) (h : ph ≠ .texBlur) :
    (runElements ph l s).seq = s.seq :=
  runElements_keeps ph (P := fun t => t.seq = s.seq) l
    (fun y x t ht => by
      obtain ⟨lo, hi, e, k⟩ := stepElement_seq ph y x t
      obtain ⟨rfl, rfl⟩ := k h
      rw [e, ← ht]) rfl

/-- A scan keeps the canonical form of memory. -/
theorem runElements_wf (l : List (Nat × Nat)) (h : Memory.wf s.bufs) :
    Memory.wf (runElements ph l s).bufs :=
  runElements_keeps ph (P := fun t => Memory.wf t.bufs) l (stepElement_wf ph) h

/-! The raster scan is a count over linear indices. -/

theorem rasterList_succ (w h : Nat) :
    rasterList w (h + 1) = rasterList w h ++ (List.range w).map fun x => (h, x) := by
  simp [rasterList, List.range_succ]

/-- Element p of the raster list of a w-wide grid is (p / w, p mod w). -/
theorem rasterList_eq_map (w h : Nat) :
    rasterList w h = (List.range (h * w)).map fun p => (p / w, p % w) := by
  induction h with
  | zero => simp [rasterList]
  | succ h ih =>
    rw [rasterList_succ, ih, Nat.succ_mul, List.range_add, List.map_append, List.map_map]
    congr 1
    apply List.map_congr_left
    intro x hx
    have hx := List.mem_range.mp hx
    have hw : 0 < w := by omega
    simp only [Function.comp]
    rw [Nat.mul_comm h w, Nat.mul_add_div hw, Nat.div_eq_of_lt hx, Nat.mul_add_mod,
      Nat.mod_eq_of_lt hx, Nat.add_zero]

theorem mem_rasterList (w h y x : Nat) : (y, x) ∈ rasterList w h ↔ y < h ∧ x < w := by
  simp [rasterList]

theorem length_rasterList (w h : Nat) : (rasterList w h).length = h * w := by
  simp [rasterList_eq_map]

theorem mem_visitList (w h y x : Nat) :
    (y, x) ∈ visitList w h ↔ y + 2 ≤ h ∧ 1 ≤ x ∧ x + 2 ≤ w := by
  simp only [visitList, List.mem_flatMap, List.mem_range, List.mem_map, Prod.mk.injEq]
  constructor
  · rintro ⟨a, ha, b, hb, rfl, rfl⟩; omega
  · rintro ⟨h1, h2, h3⟩; exact ⟨y, by omega, x - 1, by omega, rfl, by omega⟩

theorem length_visitList (w h : Nat) : (visitList w h).length = (h - 1) * (w - 2) := by
  simp [visitList]

/-- Writes g n at each index n below a bound: what a raster phase does to its buffer. -/
def fillCells {w : Nat} (c : Cells w) (g : Nat → BitVec w) : Nat → Cells w
  | 0 => c
  | n + 1 => cellSet (fillCells c g n) n (g n)

/-- After a fill, an index below the bound reads as the value filled in, any other as before. -/
theorem cellGet?_fillCells {w : Nat} (c : Cells w) (g : Nat → BitVec w) (n k : Nat) :
    cellGet? (fillCells c g n) k = if k < n then some (g k) else cellGet? c k := by
  induction n with
  | zero => simp [fillCells]
  | succ n ih =>
    rw [fillCells]
    by_cases h : k = n
    · subst h; simp
    · rw [cellGet?_cellSet_other _ _ h, ih]
      by_cases hk : k < n
      · rw [if_pos hk, if_pos (by omega)]
      · rw [if_neg hk, if_neg (by omega)]

theorem fillCells_wf {w : Nat} {c : Cells w} (h : CellsWf c) (g : Nat → BitVec w) (n : Nat) :
    CellsWf (fillCells c g n) := by
  induction n with
  | zero => exact h
  | succ n ih => exact cellSet_wf ih n _

theorem fillCells_congr {w : Nat} (c : Cells w) {f g : Nat → BitVec w} (n : Nat)
    (h : ∀ i, i < n → f i = g i) : fillCells c f n = fillCells c g n := by
  induction n with
  | zero => rfl
  | succ n ih => rw [fillCells, fillCells, ih fun i hi => h i (by omega), h n (by omega)]

/-- A raster scan, if element p takes state `F p` to `F (p + 1)`. -/
theorem runElements_raster (w h : Nat) {F : Nat → State} (h0 : F 0 = s)
    (step : ∀ p, p < h * w → stepElement ph (p / w) (p % w) (F p) = F (p + 1)) :
    runElements ph (rasterList w h) s = F (h * w) := by
  rw [rasterList_eq_map]
  have : ∀ n, n ≤ h * w →
      runElements ph ((List.range n).map fun p => (p / w, p % w)) s = F n := by
    intro n
    induction n with
    | zero => intro _; simp [h0]
    | succ n ih =>
      intro hn
      rw [List.range_succ, List.map_append, runElements_append, ih (by omega)]
      simpa using step n (by omega)
  exact this _ (le_refl _)

end Sys2Proof.Machine
end

