-- ==== Sys2Proof/Laws/Phases.lean ====
section
/-! SUPPORT. What each phase does, once: the whole state after it. Also the job function's frames.
The two order-dependent points (the error-diffusion scan, and BMIN and BMAX) have no closed form
here. -/

namespace Sys2Proof.Machine

variable (s : State)

theorem pixelIndex_div_mod (p : Nat) : pixelIndex s (p / imageW s) (p % imageW s) = p :=
  Nat.div_add_mod' p _

theorem cellIndex_div_mod (t : Nat) : cellIndex s (t / texW s) (t % texW s) = t :=
  Nat.div_add_mod' t _

/-- Phase GRAYCONV fills the first W·H elements of GRAY and changes nothing else. -/
theorem runPhase_grayconv :
    runPhase .grayconv s =
      { s with
        bufs :=
          { s.bufs with gray := fillCells s.bufs.gray (grayValue s) (imageH s * imageW s) } } :=
  runElements_raster .grayconv s (imageW s) (imageH s)
    (F := fun p =>
      { s with bufs := { s.bufs with gray := fillCells s.bufs.gray (grayValue s) p } })
    rfl fun p _ => by
      have hp : p / imageW s * imageW s + p % imageW s = p := Nat.div_add_mod' p _
      simp only [stepElement, stepGrayconv, writeGray, pixelIndex, fillCells]
      simp only [imageW] at hp ⊢
      rw [hp]
      rfl

/-- Phase BAYER fills the first W·H elements of OUT0 and changes nothing else. -/
theorem runPhase_bayer :
    runPhase .bayer s =
      { s with
        bufs :=
          { s.bufs with
            out0 :=
              fillCells s.bufs.out0
                (fun p => bayerOut s.cfg (readGray s p) (p / imageW s) (p % imageW s))
                (imageH s * imageW s) } } :=
  runElements_raster .bayer s (imageW s) (imageH s)
    (F := fun p =>
      { s with
        bufs :=
          { s.bufs with
            out0 :=
              fillCells s.bufs.out0
                (fun p => bayerOut s.cfg (readGray s p) (p / imageW s) (p % imageW s)) p } })
    rfl fun p _ => by
      have hp : p / imageW s * imageW s + p % imageW s = p := Nat.div_add_mod' p _
      simp only [stepElement, stepBayer, writeOut0, pixelIndex, fillCells]
      simp only [imageW] at hp ⊢
      rw [hp]
      rfl

/-- The scan of phase RANDOM fills the first W·H elements of OUT1. -/
theorem runElements_random :
    runElements .random (rasterList (imageW s) (imageH s)) s =
      { s with
        bufs :=
          { s.bufs with
            out1 :=
              fillCells s.bufs.out1
                (fun p => randomOut s.cfg.noiseBits (readGray s p) (draw s.cfg s.seq.seedL p))
                (imageH s * imageW s) } } :=
  runElements_raster .random s (imageW s) (imageH s)
    (F := fun p =>
      { s with
        bufs :=
          { s.bufs with
            out1 :=
              fillCells s.bufs.out1
                (fun p => randomOut s.cfg.noiseBits (readGray s p) (draw s.cfg s.seq.seedL p))
                p } })
    rfl fun p _ => by
      have hp : p / imageW s * imageW s + p % imageW s = p := Nat.div_add_mod' p _
      simp only [stepElement, stepRandom, writeOut1, pixelIndex, fillCells]
      simp only [imageW] at hp ⊢
      rw [hp]
      rfl

/-- Phase RANDOM reseeds, then fills the first W·H elements of OUT1. -/
theorem runPhase_random :
    runPhase .random s =
      { reseed s with
        bufs :=
          { s.bufs with
            out1 :=
              fillCells s.bufs.out1
                (fun p =>
                  randomOut s.cfg.noiseBits (readGray s p) (draw s.cfg (reseed s).seq.seedL p))
                (imageH s * imageW s) } } := by
  have h := runElements_random (reseed s)
  have hg : ∀ p, readGray (reseed s) p = readGray s p := by
    intro p; unfold reseed; split <;> rfl
  simp only [hg, reseed_bufs, reseed_cfg] at h
  have hw : imageW (reseed s) = imageW s := by simp [imageW]
  have hh : imageH (reseed s) = imageH s := by simp [imageH]
  rw [hw, hh] at h
  show runElements .random (rasterList (imageW (reseed s)) (imageH (reseed s))) (reseed s) = _
  rw [hw, hh, h]
  simp only [reseed_cfg]

/-- Phase FS_INIT copies GRAY into ACC and OUT2. -/
theorem runPhase_fsInit :
    runPhase .fsInit s =
      { s with
        bufs :=
          { s.bufs with
            acc :=
              fillCells s.bufs.acc (fun p => BitVec.ofInt 16 (readGray s p).toNat)
                (imageH s * imageW s)
            out2 := fillCells s.bufs.out2 (readGray s) (imageH s * imageW s) } } :=
  runElements_raster .fsInit s (imageW s) (imageH s)
    (F := fun p =>
      { s with
        bufs :=
          { s.bufs with
            acc := fillCells s.bufs.acc (fun p => BitVec.ofInt 16 (readGray s p).toNat) p
            out2 := fillCells s.bufs.out2 (readGray s) p } })
    rfl fun p _ => by
      have hp : p / imageW s * imageW s + p % imageW s = p := Nat.div_add_mod' p _
      simp only [stepElement, stepFsInit, writeAcc, writeOut2, pixelIndex, fillCells]
      simp only [imageW] at hp ⊢
      rw [hp]
      rfl

/-- The scan of phase TEX_FILL fills the first TWL·THL elements of TEXRAW. -/
theorem runElements_texFill :
    runElements .texFill (rasterList (texW s) (texH s)) s =
      { s with
        bufs :=
          { s.bufs with
            texRaw :=
              fillCells s.bufs.texRaw
                (fun t => texRawElement s.cfg (draw s.cfg s.seq.seedL t)) (texH s * texW s) } } :=
  runElements_raster .texFill s (texW s) (texH s)
    (F := fun t =>
      { s with
        bufs :=
          { s.bufs with
            texRaw :=
              fillCells s.bufs.texRaw
                (fun t => texRawElement s.cfg (draw s.cfg s.seq.seedL t)) t } })
    rfl fun t _ => by
      have hp : t / texW s * texW s + t % texW s = t := Nat.div_add_mod' t _
      simp only [stepElement, stepTexFill, writeTexRaw, cellIndex, fillCells]
      simp only [texW] at hp ⊢
      rw [hp]

/-- Phase TEX_FILL is its start action, then its scan. -/
theorem runPhase_texFill :
    runPhase .texFill s =
      runElements .texFill (rasterList (texW (startTexFill s)) (texH (startTexFill s)))
        (startTexFill s) :=
  rfl

/-- The scan of phase TEX_NORM subtracts BMIN from the first TWL·THL elements of TEX. -/
theorem runElements_texNorm :
    runElements .texNorm (rasterList (texW s) (texH s)) s =
      { s with
        bufs :=
          { s.bufs with
            tex :=
              fillCells s.bufs.tex (fun t => readTex s t - s.seq.bmin) (texH s * texW s) } } :=
  runElements_raster .texNorm s (texW s) (texH s)
    (F := fun t =>
      { s with
        bufs :=
          { s.bufs with
            tex := fillCells s.bufs.tex (fun t => readTex s t - s.seq.bmin) t } })
    rfl fun t _ => by
      have hp : t / texW s * texW s + t % texW s = t := Nat.div_add_mod' t _
      simp only [stepElement, stepTexNorm, writeTex, cellIndex, fillCells]
      simp only [texW] at hp ⊢
      rw [hp]
      simp only [readTex, readCell, cellGet?_fillCells, lt_irrefl, if_false]

/-- Phase TEX_NORM sets the range, subtracts BMIN, and sets TEX_VALID. -/
theorem runPhase_texNorm :
    runPhase .texNorm s =
      { s with
        res := { s.res with texRange := s.seq.bmax - s.seq.bmin }
        status := { s.status with texValid := true }
        bufs :=
          { s.bufs with
            tex :=
              fillCells s.bufs.tex (fun t => readTex s t - s.seq.bmin) (texH s * texW s) } } := by
  have h := runElements_texNorm (startTexNorm s)
  show finishTexNorm
      (runElements .texNorm (rasterList (texW (startTexNorm s)) (texH (startTexNorm s)))
        (startTexNorm s)) = _
  rw [h]
  rfl

/-- Phase BLUE_DITHER fills the first W·H elements of OUT3 and changes nothing else. -/
theorem runPhase_blueDither :
    runPhase .blueDither s =
      { s with
        bufs :=
          { s.bufs with
            out3 :=
              fillCells s.bufs.out3
                (fun p =>
                  blueOut (readGray s p) (texRange s)
                    (readTex s (tileIndex s (p / imageW s) (p % imageW s))).toNat)
                (imageH s * imageW s) } } :=
  runElements_raster .blueDither s (imageW s) (imageH s)
    (F := fun p =>
      { s with
        bufs :=
          { s.bufs with
            out3 :=
              fillCells s.bufs.out3
                (fun p =>
                  blueOut (readGray s p) (texRange s)
                    (readTex s (tileIndex s (p / imageW s) (p % imageW s))).toNat) p } })
    rfl fun p _ => by
      have hp : p / imageW s * imageW s + p % imageW s = p := Nat.div_add_mod' p _
      simp only [stepElement, stepBlueDither, writeOut3, pixelIndex, fillCells]
      simp only [imageW] at hp ⊢
      rw [hp]
      rfl

/-! Frames of a phase and of a job. -/

@[simp] theorem startPhase_cfg (ph : Phase) : (startPhase ph s).cfg = s.cfg := by
  cases ph <;> simp [startPhase]

@[simp] theorem startPhase_regs (ph : Phase) : (startPhase ph s).regs = s.regs := by
  cases ph <;> simp [startPhase]

@[simp] theorem startPhase_bufs (ph : Phase) : (startPhase ph s).bufs = s.bufs := by
  cases ph <;> simp [startPhase]

@[simp] theorem finishPhase_cfg (ph : Phase) : (finishPhase ph s).cfg = s.cfg := by
  cases ph <;> simp [finishPhase]

@[simp] theorem finishPhase_regs (ph : Phase) : (finishPhase ph s).regs = s.regs := by
  cases ph <;> simp [finishPhase]

@[simp] theorem finishPhase_res (ph : Phase) : (finishPhase ph s).res = s.res := by
  cases ph <;> simp [finishPhase]

@[simp] theorem finishPhase_bufs (ph : Phase) : (finishPhase ph s).bufs = s.bufs := by
  cases ph <;> simp [finishPhase]

@[simp] theorem finishPhase_seq (ph : Phase) : (finishPhase ph s).seq = s.seq := by
  cases ph <;> simp [finishPhase]

@[simp] theorem finishPhase_env (ph : Phase) : (finishPhase ph s).env = s.env := by
  cases ph <;> simp [finishPhase]

@[simp] theorem runPhase_cfg (ph : Phase) : (runPhase ph s).cfg = s.cfg := by
  simp [runPhase]

@[simp] theorem runPhase_regs (ph : Phase) : (runPhase ph s).regs = s.regs := by
  simp [runPhase]

/-- No phase writes IN. -/
@[simp] theorem runPhase_inp (ph : Phase) : (runPhase ph s).bufs.inp = s.bufs.inp := by
  simp [runPhase]

/-- A phase keeps the canonical form of memory. -/
theorem runPhase_wf (ph : Phase) {s : State} (h : Memory.wf s.bufs) :
    Memory.wf (runPhase ph s).bufs := by
  simp only [runPhase, finishPhase_bufs]
  exact runElements_wf ph _ _ (by simpa using h)

@[simp] theorem runPhases_nil : runPhases [] s = s := rfl

@[simp] theorem runPhases_cons (ph : Phase) (l : List Phase) :
    runPhases (ph :: l) s = runPhases l (runPhase ph s) := rfl

theorem runPhases_append (l m : List Phase) :
    runPhases (l ++ m) s = runPhases m (runPhases l s) := by
  simp [runPhases]

/-- A property that every phase keeps holds after a job. -/
theorem runPhases_keeps {P : State → Prop} (l : List Phase) {s : State}
    (step : ∀ ph t, P t → P (runPhase ph t)) (h : P s) : P (runPhases l s) := by
  induction l generalizing s with
  | nil => exact h
  | cons ph r ih => exact ih (step ph s h)

@[simp] theorem runPhases_cfg (l : List Phase) : (runPhases l s).cfg = s.cfg :=
  runPhases_keeps (P := fun t => t.cfg = s.cfg) l (fun ph t h => by simp [h]) rfl

@[simp] theorem runPhases_regs (l : List Phase) : (runPhases l s).regs = s.regs :=
  runPhases_keeps (P := fun t => t.regs = s.regs) l (fun ph t h => by simp [h]) rfl

/-- No job writes IN. -/
@[simp] theorem runPhases_inp (l : List Phase) : (runPhases l s).bufs.inp = s.bufs.inp :=
  runPhases_keeps (P := fun t => t.bufs.inp = s.bufs.inp) l (fun ph t h => by simp [h]) rfl

/-- A job keeps the canonical form of memory. -/
theorem runPhases_wf (l : List Phase) {s : State} (h : Memory.wf s.bufs) :
    Memory.wf (runPhases l s).bufs :=
  runPhases_keeps (P := fun t => Memory.wf t.bufs) l (fun ph _ ht => runPhase_wf ph ht) h

end Sys2Proof.Machine
end

