-- ==== Sys2Proof/Laws/Operations.lean ====
section
/-! SUPPORT. For each shared operation, once, everything it can do: issuing a job, executing a
command, a host read, a host write, a host access, an engine step, a step. -/

namespace Sys2Proof.Machine

/-- The checks of a list all pass exactly when none of them is the first to fail. -/
theorem firstFailing_none (s : State) (l : List Check) :
    firstFailing s l = none ↔ ∀ c ∈ l, c.fails s = false := by
  induction l with
  | nil => simp [firstFailing]
  | cons c r ih =>
    simp only [firstFailing]
    cases hc : c.fails s <;> simp [hc, ih]

theorem dim_passes (s : State) : Check.fails s .dim = false ↔ imageFits s := by
  simp [Check.fails, imageFits]

theorem texdim_passes (s : State) : Check.fails s .texdim = false ↔ textureFits s := by
  simp only [Check.fails, textureFits, Bool.or_eq_false_iff, decide_eq_false_iff_not, not_lt]
  tauto

theorem krad_passes (s : State) : Check.fails s .krad = false ↔ kernelFits s := by
  simp [Check.fails, kernelFits]

theorem notex_passes (s : State) : Check.fails s .notex = false ↔ s.status.texValid = true := by
  simp [Check.fails]

/-- Issuing a job, once: it is turned away while BUSY, rejected by its first failing check, or
accepted, and then left running or run to completion. -/
theorem issueJob_cases {i : Instr} {l : List Check} {s t : State} (h : issueJob i l s = .next t) :
    (s.status.busy = true ∧ t = markWriteBusy s) ∨
    (s.status.busy = false ∧ ∃ c, firstFailing s l = some c ∧ t = reject c.code s) ∨
    (s.status.busy = false ∧ firstFailing s l = none ∧ s.env.overlap = true ∧ t = accept i s) ∨
    (s.status.busy = false ∧ firstFailing s l = none ∧ s.env.overlap = false ∧
      t = complete (runPhases (phaseList s.cfg i) (accept i s))) := by
  unfold issueJob at h
  split at h
  · rename_i hb; injection h with h; exact .inl ⟨hb, h.symm⟩
  · rename_i hb
    have hb : s.status.busy = false := by simpa using hb
    split at h
    · rename_i c hc; injection h with h; exact .inr (.inl ⟨hb, c, hc, h.symm⟩)
    · rename_i hc
      split at h
      · rename_i ho; injection h with h; exact .inr (.inr (.inl ⟨hb, hc, ho, h.symm⟩))
      · rename_i ho
        injection h with h
        exact .inr (.inr (.inr ⟨hb, hc, by simpa using ho, h.symm⟩))

/-- An accepted job left running. -/
theorem issueJob_accepts {i : Instr} {l : List Check} {s : State} (hb : s.status.busy = false)
    (hl : firstFailing s l = none) (ho : s.env.overlap = true) :
    issueJob i l s = .next (accept i s) := by
  simp [issueJob, hb, hl, ho]

/-- An accepted job run to completion. -/
theorem issueJob_completes {i : Instr} {l : List Check} {s : State} (hb : s.status.busy = false)
    (hl : firstFailing s l = none) (ho : s.env.overlap = false) :
    issueJob i l s = .next (complete (runPhases (phaseList s.cfg i) (accept i s))) := by
  simp [issueJob, hb, hl, ho]

/-- The checks of each command (60_exceptions.md R302), as `exec` passes them. -/
def checksOf : Instr → List Check
  | .nop => []
  | .gray => [.dim]
  | .bayer => [.dim]
  | .random => [.dim]
  | .fs => [.dim]
  | .blue => [.dim, .texdim, .krad]
  | .genTex => [.texdim, .krad]
  | .blueDither => [.dim, .notex]
  | .all => [.dim, .texdim, .krad]

/-- Every command but NOP issues a job. -/
theorem exec_eq_issueJob {i : Instr} (h : i ≠ .nop) (s : State) :
    exec i s = issueJob i (checksOf i) s := by
  cases i
  case nop => exact absurd rfl h
  all_goals rfl

/-- A command's checks pass exactly as 60_exceptions.md R302 says. -/
theorem firstFailing_checksOf (i : Instr) (s : State) :
    firstFailing s (checksOf i) = none ↔ checksPass i s := by
  rw [firstFailing_none]
  cases i <;>
    simp only [checksOf, checksPass, List.mem_cons, List.not_mem_nil, or_false, forall_eq_or_imp,
      forall_eq, dim_passes, texdim_passes, krad_passes, notex_passes]
  simp

/-- Executing a command, once. -/
theorem exec_cases {i : Instr} {s t : State} (h : exec i s = .next t) :
    (s.status.busy = true ∧ t = markWriteBusy s) ∨
    (s.status.busy = false ∧ i = .nop ∧ t = s) ∨
    (s.status.busy = false ∧ i ≠ .nop ∧ ∃ c, t = reject c s) ∨
    (s.status.busy = false ∧ i ≠ .nop ∧ checksPass i s ∧ s.env.overlap = true ∧
      t = accept i s) ∨
    (s.status.busy = false ∧ i ≠ .nop ∧ checksPass i s ∧ s.env.overlap = false ∧
      t = complete (runPhases (phaseList s.cfg i) (accept i s))) := by
  by_cases hi : i = .nop
  · subst hi
    simp only [exec, execNop] at h
    split at h
    · rename_i hb; injection h with h; exact .inl ⟨hb, h.symm⟩
    · rename_i hb; injection h with h; exact .inr (.inl ⟨by simpa using hb, rfl, h.symm⟩)
  · rw [exec_eq_issueJob hi] at h
    rcases issueJob_cases h with ⟨hb, ht⟩ | ⟨hb, c, -, ht⟩ | ⟨hb, hl, ho, ht⟩ | ⟨hb, hl, ho, ht⟩
    · exact .inl ⟨hb, ht⟩
    · exact .inr (.inr (.inl ⟨hb, hi, c.code, ht⟩))
    · exact .inr (.inr (.inr (.inl ⟨hb, hi, (firstFailing_checksOf i s).mp hl, ho, ht⟩)))
    · exact .inr (.inr (.inr (.inr ⟨hb, hi, (firstFailing_checksOf i s).mp hl, ho, ht⟩)))

/-- A command that passes its checks and completes before the next input. -/
theorem exec_completes {i : Instr} {s : State} (hi : i ≠ .nop) (hb : s.status.busy = false)
    (hc : checksPass i s) (ho : s.env.overlap = false) :
    exec i s = .next (complete (runPhases (phaseList s.cfg i) (accept i s))) := by
  rw [exec_eq_issueJob hi]
  exact issueJob_completes hb ((firstFailing_checksOf i s).mpr hc) ho

/-- What a host read leaves of the block, once: only BUF_DATA while BUSY = 0 changes anything, and
that BUF_ADDR. -/
theorem readReg_snd (r : Reg) (s : State) :
    (readReg r s).2 =
      if r = .bufData ∧ s.status.busy = false then advanceBufAddr s else s := by
  cases r <;> cases hb : s.status.busy <;> simp [readReg, hb]

/-- A host read, once: the value read is the newest received, and BUF_ADDR is all else that can
change. -/
theorem hostRead_eq (r : Reg) (s : State) :
    ∃ a,
      hostRead r s =
        { s with
          regs := { s.regs with bufAddr := a }
          env := { s.env with received := (readReg r s).1 :: s.env.received } } ∧
      (r ≠ .bufData ∨ s.status.busy = true → a = s.regs.bufAddr) := by
  have h := readReg_snd r s
  split at h
  · rename_i hr
    refine ⟨s.regs.bufAddr + 1, ?_, by simp [hr.1, hr.2]⟩
    simp only [hostRead, h]
    rfl
  · refine ⟨s.regs.bufAddr, ?_, fun _ => rfl⟩
    simp only [hostRead, h]

/-- A write of a configuration register changes configuration registers only. -/
theorem setConfig_eq (r : Reg) (v : Word) (s : State) :
    setConfig r v s = { s with regs := (setConfig r v s).regs } := by
  cases r <;> rfl

/-- A write of BUF_DATA while BUSY = 0, once: BUF_ADDR advances, and at most one element of IN, below
its capacity, is written. -/
theorem portWrite_cases (v : Word) (s : State) :
    portWrite v s = advanceBufAddr s ∨
    (s.regs.bufAddr.toNat < capacity s.cfg .inp ∧
      portWrite v s = advanceBufAddr (writeIn s s.regs.bufAddr.toNat (v.setWidth 8))) := by
  simp only [portWrite]
  split
  · rename_i h; exact .inr ⟨h.2, rfl⟩
  · exact .inl rfl

/-- A write of STATUS writes DONE, ERR, ERRCODE and WRBUSY only. -/
theorem writeStatus_eq (v : Word) (s : State) :
    writeStatus v s =
      { s with
        status :=
          { s.status with
            done := if v.getLsbD 1 then false else s.status.done
            err := if v.getLsbD 2 then false else s.status.err
            errCode := if v.getLsbD 2 then 0 else s.status.errCode
            wrbusy := if v.getLsbD 3 then false else s.status.wrbusy } } := by
  simp only [writeStatus, clearError]
  cases v.getLsbD 1 <;> cases v.getLsbD 2 <;> cases v.getLsbD 3 <;> rfl

/-- A host write, once. -/
theorem hostWrite_cases {r : Reg} {v : Word} {s t : State} (h : hostWrite r v s = .next t) :
    (s.status.busy = true ∧ t = markWriteBusy s) ∨
    (s.status.busy = false ∧ r = .cmd ∧ issueWord v s = .next t) ∨
    (r = .status ∧ t = writeStatus v s) ∨
    (s.status.busy = false ∧ r = .bufData ∧ t = portWrite v s) ∨
    (s.status.busy = false ∧ t = { s with regs := t.regs }) ∨
    (guardedWhileBusy r = false ∧ r ≠ .status ∧ t = s) := by
  unfold hostWrite at h
  cases hb : s.status.busy
  · simp only [hb, Bool.and_false] at h
    rw [if_neg (by simp)] at h
    cases r
    case cmd => exact .inr (.inl ⟨rfl, rfl, h⟩)
    case status => injection h with h; exact .inr (.inr (.inl ⟨rfl, h.symm⟩))
    case bufData => injection h with h; exact .inr (.inr (.inr (.inl ⟨rfl, rfl, h.symm⟩)))
    all_goals
      injection h with h
      exact .inr (.inr (.inr (.inr (.inl ⟨rfl, by rw [← h]; rfl⟩))))
  · cases r
    case status =>
      simp only [guardedWhileBusy, Bool.false_and] at h
      rw [if_neg (by simp)] at h
      injection h with h; exact .inr (.inr (.inl ⟨rfl, h.symm⟩))
    case id | seedUsed | texRangeLo | texRangeHi | texDimL | reserved =>
      simp only [guardedWhileBusy, Bool.false_and] at h
      rw [if_neg (by simp)] at h
      injection h with h
      exact .inr (.inr (.inr (.inr (.inr ⟨rfl, by simp, h.symm⟩))))
    all_goals
      simp only [guardedWhileBusy, hb, Bool.and_self] at h
      rw [if_pos (by simp)] at h
      injection h with h; exact .inl ⟨rfl, h.symm⟩

/-- Issuing a word while BUSY = 0, once. -/
theorem issueWord_cases {w : Word} {s t : State} (hb : s.status.busy = false)
    (h : issueWord w s = .next t) :
    (∃ e, decode w = .error e ∧ t = reject .cmd s) ∨
    (∃ i, decode w = .ok i ∧ exec i s = .next t) := by
  unfold issueWord at h
  rw [if_neg (by simp [hb])] at h
  split at h
  · rename_i e he; injection h with h; exact .inl ⟨e, he, h.symm⟩
  · rename_i i hi; exact .inr ⟨i, hi, h⟩

/-- A host access that the block answers is a register read or a register write. -/
theorem hostAccess_cases {a : BusAccess} {s t : State} (h : hostAccess a s = .next t) :
    ∃ r, (a.op = .read ∧ t = hostRead r s) ∨ (∃ v, a.op = .write v ∧ hostWrite r v s = .next t) := by
  unfold hostAccess at h
  split at h
  · simp at h
  · split at h
    · simp at h
    · simp at h
    · simp at h
    · split at h
      · cases hop : a.op with
        | read =>
          simp only [hop] at h
          injection h with h; exact ⟨_, .inl ⟨rfl, h.symm⟩⟩
        | write v => simp only [hop] at h; exact ⟨_, .inr ⟨v, rfl, h⟩⟩
      · simp at h

/-- An aligned 32-bit access of the window is the read or the write of the register at its offset. -/
theorem hostAccess_word {op : BusOp} {offset : Nat} {s : State} (hb : s.cfg.base % 4 = 0)
    (ho : offset % 4 = 0) (hl : offset < 4096) :
    hostAccess ⟨op, s.cfg.base + offset, .word⟩ s =
      match op with
      | .read => .next (hostRead (regAt offset) s)
      | .write v => hostWrite (regAt offset) v s := by
  have hi : ¬(s.cfg.base + offset < s.cfg.base ∨ s.cfg.base + 4096 ≤ s.cfg.base + offset) := by
    omega
  have ha : (s.cfg.base + offset) % 4 = 0 := by omega
  cases op <;> simp only [hostAccess, if_neg hi, if_pos ha, Nat.add_sub_cancel_left]

/-- An engine step, once: nothing, entering a phase, one element, or leaving a phase. -/
theorem engineStep_cases (s : State) :
    (s.status.busy = false ∧ engineStep s = s) ∨
    (s.status.busy = true ∧ s.seq.entered = false ∧ engineStep s = enterPhase s) ∨
    (s.status.busy = true ∧ s.seq.entered = true ∧
      scanEnded s.seq.phase s s.seq.sy.toNat = false ∧ engineStep s = processElement s) ∨
    (s.status.busy = true ∧ s.seq.entered = true ∧
      scanEnded s.seq.phase s s.seq.sy.toNat = true ∧ engineStep s = leavePhase s) := by
  unfold engineStep
  cases hb : s.status.busy
  · exact .inl ⟨rfl, by simp⟩
  · cases he : s.seq.entered
    · exact .inr (.inl ⟨rfl, rfl, by simp⟩)
    · cases hs : scanEnded s.seq.phase s s.seq.sy.toNat
      · exact .inr (.inr (.inl ⟨rfl, rfl, rfl, by simp⟩))
      · exact .inr (.inr (.inr ⟨rfl, rfl, rfl, by simp⟩))

/-- Leaving a phase, once: to the next phase of the list, or completion. -/
theorem leavePhase_cases (s : State) :
    (∃ ph, (currentPhases s)[s.seq.pos + 1]? = some ph ∧
      leavePhase s = pointAtPhase ph (s.seq.pos + 1) (finishPhase s.seq.phase s)) ∨
    ((currentPhases s)[s.seq.pos + 1]? = none ∧
      leavePhase s = complete (finishPhase s.seq.phase s)) := by
  unfold leavePhase
  cases h : (currentPhases s)[s.seq.pos + 1]? with
  | none => exact .inr ⟨rfl, rfl⟩
  | some ph => exact .inl ⟨ph, rfl, rfl⟩

/-- A step that answers a next state, once: an engine step, a host access, or reset. -/
theorem step_cases {s t : State} (h : step s = .next t) :
    (s.env.inputs = [] ∧ t = engineStep s) ∨
    (∃ i rest, s.env.inputs = i :: rest ∧
      ((i = .engine ∧ t = engineStep { s with env := { s.env with inputs := rest } }) ∨
       (i = .reset ∧ t = resetBlock { s with env := { s.env with inputs := rest } }) ∨
       (∃ a overlap, i = .host a overlap ∧
          hostAccess a (beginAccess a.op overlap { s with env := { s.env with inputs := rest } }) =
            .next t))) := by
  unfold step stepOnce at h
  split at h
  · rename_i he; injection h with h; exact .inl ⟨he, h.symm⟩
  · rename_i i rest he
    refine .inr ⟨i, rest, he, ?_⟩
    cases i with
    | host a overlap => exact .inr (.inr ⟨a, overlap, rfl, h⟩)
    | engine => injection h with h; exact .inl ⟨rfl, h.symm⟩
    | reset => injection h with h; exact .inr (.inl ⟨rfl, h.symm⟩)

end Sys2Proof.Machine
end

