-- ==== Sys2Proof/Laws/PerInstr.lean ====
section
/-! SUPPORT. What holds of the command word of every command, one lemma for each constructor. -/

namespace Sys2Proof.Laws

/-- The command word of a command has the format of 30_encoding.md R120 (bits 31..4 zero), is
legal (R123), holds the command's op code in bits 3..0 (R121), and the command is well formed. -/
def CommandWord.Statement (i : Instr) : Prop :=
  (encode i).extractLsb' 4 28 = 0#28 ∧ (encode i).setWidth 4 = opCode i ∧
    wordWellFormed (encode i) = true ∧ opOfCode (opCode i) = some i ∧ i.wellFormed = true

theorem CommandWord.nop : CommandWord.Statement .nop :=
  ⟨by decide, by decide, by decide, rfl, rfl⟩

theorem CommandWord.gray : CommandWord.Statement .gray :=
  ⟨by decide, by decide, by decide, rfl, rfl⟩

theorem CommandWord.bayer : CommandWord.Statement .bayer :=
  ⟨by decide, by decide, by decide, rfl, rfl⟩

theorem CommandWord.random : CommandWord.Statement .random :=
  ⟨by decide, by decide, by decide, rfl, rfl⟩

theorem CommandWord.fs : CommandWord.Statement .fs :=
  ⟨by decide, by decide, by decide, rfl, rfl⟩

theorem CommandWord.blue : CommandWord.Statement .blue :=
  ⟨by decide, by decide, by decide, rfl, rfl⟩

theorem CommandWord.genTex : CommandWord.Statement .genTex :=
  ⟨by decide, by decide, by decide, rfl, rfl⟩

theorem CommandWord.blueDither : CommandWord.Statement .blueDither :=
  ⟨by decide, by decide, by decide, rfl, rfl⟩

theorem CommandWord.all : CommandWord.Statement .all :=
  ⟨by decide, by decide, by decide, rfl, rfl⟩

end Sys2Proof.Laws
end

