-- ==== Sys2Proof/Tests/Slice0.lean ====
section
/-! SUPPORT. Tests of the model: smoke tests of the well-formedness checks, decoding of words written
out from 30_encoding.md R120 and R121, at most two tests for each command with results taken from
95_test_vectors.md or worked out by hand from the rules, and for each obligation that has hypotheses
a state and operands that meet them. -/

namespace Sys2Proof.Tests

open Sys2Proof.Machine

/-! ## Well-formedness: a term that each check refuses -/

theorem test_mbzZero_refuses_bit4 : mbzZero 0x00000010#32 = false := by decide

theorem test_opDefined_refuses_nine : opDefined 0x00000009#32 = false := by decide

theorem test_opDefined_accepts_eight : opDefined 0x00000008#32 = true := by decide

theorem test_wordWellFormed_refuses :
    wordWellFormed 0x80000001#32 = false ∧ wordWellFormed 0x0000000F#32 = false := by decide

theorem test_wellFormed_accepts : Instr.wellFormed .genTex = true := by decide

theorem test_imageLimits_refuse_zero_width :
    Config.imageLimitsOk { Config.default with maxW := 0 } = false := by decide

/-- 65535 × 65535 pixels of three bytes are more than 2^32 (00_scope.md R7). -/
theorem test_imageLimits_refuse_product :
    Config.imageLimitsOk { Config.default with maxW := 65535, maxH := 65535 } = false := by decide

theorem test_texLimits_refuse_kradMax :
    Config.texLimitsOk { Config.default with kradMax := 4 } = false := by decide

theorem test_noiseBits_refuse_twenty_five :
    Config.noiseBitsOk { Config.default with noiseBits := 25 } = false := by decide

theorem test_grayWeights_refuse_sum :
    Config.grayWeightsOk { Config.default with cR := 4900 } = false := by decide

theorem test_base_refuses_odd : Config.baseOk { Config.default with base := 2 } = false := by decide

theorem test_default_is_legal : Config.default.wf = true := by decide

/-! ## Decoding: every command's word, bit by bit from the spec's encoding -/

theorem test_decode_nop : decode 0b00000000000000000000000000000000#32 = .ok .nop := by decide

theorem test_decode_gray : decode 0b00000000000000000000000000000001#32 = .ok .gray := by decide

theorem test_decode_bayer : decode 0b00000000000000000000000000000010#32 = .ok .bayer := by decide

theorem test_decode_random : decode 0b00000000000000000000000000000011#32 = .ok .random := by decide

theorem test_decode_fs : decode 0b00000000000000000000000000000100#32 = .ok .fs := by decide

theorem test_decode_blue : decode 0b00000000000000000000000000000101#32 = .ok .blue := by decide

theorem test_decode_genTex : decode 0b00000000000000000000000000000110#32 = .ok .genTex := by decide

theorem test_decode_blueDither :
    decode 0b00000000000000000000000000000111#32 = .ok .blueDither := by decide

theorem test_decode_all : decode 0b00000000000000000000000000001000#32 = .ok .all := by decide

theorem test_decode_reserved :
    decode 0b00000000000000000000000000001001#32 = .error .reservedOp ∧
    decode 0b00000000000000000000000000001111#32 = .error .reservedOp := by decide

/-- A set bit above the op code, whatever the op code is (30_encoding.md R123). -/
theorem test_decode_mbz :
    decode 0b00000000000000000000000000010000#32 = .error .mbzNotZero ∧
    decode 0b10000000000000000000000000000001#32 = .error .mbzNotZero := by decide

/-- The byte at the lowest address is bits 7..0 (20_memory.md R82). -/
theorem test_decodeBytes_little_endian :
    decodeBytes [0x07#8, 0#8, 0#8, 0#8, 0x55#8] = .ok (.blueDither, [0x55#8]) ∧
    decodeBytes [0#8, 0#8, 0#8, 0x07#8] = .error .mbzNotZero ∧
    decodeBytes [0x07#8, 0#8, 0#8] = .error .tooShort := by decide

theorem test_decodeTableWord :
    decodeTableWord 32 8 = some .all ∧ decodeTableWord 32 0x12 = none ∧
    decodeTableWord 8 3 = some .random := by decide

/-! ## Helpers -/

/-- The next state, none where the outcome stops. -/
def next? : Host.Outcome State Fault Refusal → Option State
  | .next t => some t
  | .fault _ => none
  | .refused _ => none

/-- A machine after reset with a one-channel w×h image loaded. -/
def image (w h : Nat) (px : List Nat) : State :=
  { State.reset with
    regs :=
      { Regs.reset with
        inFmt := true
        width := BitVec.ofNat 16 w
        height := BitVec.ofNat 16 h }
    bufs := { Buffers.reset with inp := px.zipIdx.map fun e => (e.2, BitVec.ofNat 8 e.1) } }

/-- The state with a given parameter record. -/
def withCfg (c : Config) (s : State) : State :=
  { s with cfg := c }

/-- The state with its seed taken from register SEED and a small texture asked for. -/
def seeded (seed : Word) (tw th : BitVec 16) (s : State) : State :=
  { s with regs := { s.regs with seedSrc := true, seed := seed, texW := tw, texH := th } }

/-- The state with a finished texture of the given size, range and numerators. -/
def textured (tw th : BitVec 16) (r : BitVec 64) (ds : List (BitVec 64)) (s : State) : State :=
  { s with
    res := { s.res with texRange := r, twl := tw, thl := th }
    status := { s.status with texValid := true }
    bufs := { s.bufs with tex := ds.zipIdx.map fun e => (e.2, e.1) } }

/-- The written bytes of a buffer in index order. -/
def bytes (c : Cells 8) : List Nat :=
  c.map fun e => e.2.toNat

/-- What STATUS reads as after an outcome. -/
def statusAfter (o : Host.Outcome State Fault Refusal) : Option Word :=
  (next? o).map fun t => (readReg .status t).1

/-! ## The commands -/

/-- 95_test_vectors.md S1: NOP after a BAYER job leaves STATUS as it is. -/
theorem test_nop_keeps_status :
    statusAfter
      (exec .nop
        { State.reset with status := { Status.reset with done := true, lastOp := 2 } }) =
      some 0x00002002#32 := by decide

/-- 95_test_vectors.md V3, V4, V5, V9: red, green, blue and (200, 100, 50) in (B, G, R) order. -/
theorem test_gray_converts :
    (next? (exec .gray
        { image 2 2 [0, 0, 255, 0, 255, 0, 255, 0, 0, 200, 100, 50] with
          regs := { Regs.reset with width := 2, height := 2 } })).map
      (fun t => bytes t.bufs.gray) = some [76, 150, 29, 96] := by decide

/-- 95_test_vectors.md V11: the red channel comes first with CHANNEL_ORDER = RGB. -/
theorem test_gray_rgb : gray3 { Config.default with channelOrder := .rgb } 255 0 0 = 76#8 := by
  decide

/-- 95_test_vectors.md B6: a uniform 4×4 image of gray 100. -/
theorem test_bayer_uniform_100 :
    (next? (exec .bayer (image 4 4 (List.replicate 16 100)))).map
      (fun t => bytes t.bufs.out0) =
      some [255, 0, 255, 0, 0, 255, 0, 255, 255, 0, 255, 0, 0, 0, 0, 255] := by
  decide +kernel

/-- 95_test_vectors.md S17: an empty image is accepted and nothing is written. -/
theorem test_bayer_empty_image :
    (next? (exec .bayer State.reset)).map (fun t => (t.bufs, (readReg .status t).1)) =
      some (Buffers.reset, 0x00002002#32) := by decide

/-- 95_test_vectors.md R4 to R7: gray 128 and gray 255 at the edge of their thresholds. -/
theorem test_random_threshold :
    [randomOut 16 128 32639, randomOut 16 128 32640, randomOut 16 255 0, randomOut 16 255 1] =
      [0#8, 255#8, 0#8, 255#8] := by decide

/-- 95_test_vectors.md R12: an empty image draws nothing but latches the seed. -/
theorem test_random_latches_seed :
    (next? (exec .random (seeded 5 64 64 State.reset))).map
      (fun t => (t.bufs, (readReg .seedUsed t).1)) = some (Buffers.reset, 5#32) := by decide

/-- 95_test_vectors.md F9: ACC and OUT2 of the 5×3 image. -/
theorem test_fs_f9 :
    (next? (exec .fs
        (image 5 3 [0, 50, 100, 150, 200, 250, 5, 60, 130, 255, 90, 90, 90, 90, 90]))).map
      (fun t => (t.bufs.acc.map fun e => e.2.toInt, bytes t.bufs.out2)) =
      some ([0, 0, 0, 255, 177, 259, 0, 0, 255, 215, 98, 125, 111, 70, 85],
        [0, 0, 0, 255, 200, 250, 0, 0, 255, 255, 90, 90, 90, 90, 90]) := by decide +kernel

/-- 95_test_vectors.md F4 and F10: the threshold GT128, and the border ACC_SAT. -/
theorem test_fs_parameters :
    ((next? (exec .fs (withCfg { Config.default with fsThresh := .gt128 }
        (image 3 3 (List.replicate 9 128))))).map fun t => bytes t.bufs.out2) =
      some [128, 0, 128, 128, 255, 128, 128, 128, 128] ∧
    ((next? (exec .fs (withCfg { Config.default with fsBorder := .accSat }
        (image 5 3 [0, 50, 100, 150, 200, 250, 5, 60, 130, 255, 90, 90, 90, 90, 90])))).map
          fun t => bytes t.bufs.out2) =
      some [0, 0, 0, 255, 177, 255, 0, 0, 255, 215, 98, 125, 111, 70, 85] := by decide +kernel

/-- 95_test_vectors.md P4, lines 15 to 17, for any noise source: STATUS, SEED_USED and TEX_DIM_L. -/
theorem test_genTex_registers :
    (next? (exec .genTex (seeded 0x12345678 1 1 State.reset))).map
      (fun t => ((readReg .status t).1, (readReg .seedUsed t).1, (readReg .texDimL t).1)) =
      some (0x00006102#32, 0x12345678#32, 0x00010001#32) := by decide

/-- 95_test_vectors.md T4: the blur and the normalisation of the draws 7, 100, 3. -/
theorem test_genTex_t4 :
    let s := startTexFill
      { State.reset with
        regs := { Regs.reset with texW := 3, texH := 1, krad := 1, kw0 := 2, kw1 := 1 } }
    let t := runPhase .texNorm (runPhase .texBlur
      { s with bufs := { s.bufs with texRaw := [(0, 7), (1, 100), (2, 3)] } })
    (t.res.texRange, t.bufs.tex) = (32#64, [(0, 32#64), (1, 16#64), (2, 0#64)]) := by
  decide +kernel

/-- 95_test_vectors.md U4v: texture T4 over one row. -/
theorem test_blueDither_u4 :
    (next? (exec .blueDither (textured 3 1 32 [32, 16, 0] (image 5 1 [0, 100, 128, 200, 255])))).map
      (fun t => bytes t.bufs.out3) = some [0, 0, 0, 255, 255] := by decide +kernel

/-- 95_test_vectors.md S9: no texture since reset. -/
theorem test_blueDither_no_texture :
    statusAfter (exec .blueDither (image 1 1 [200])) = some 0x00000054#32 := by decide

/-- 95_test_vectors.md S5: DIM is checked before TEXDIM. -/
theorem test_blue_first_check :
    statusAfter (exec .blue (seeded 0 0 64 (image 1025 1 []))) = some 0x00000024#32 := by decide

/-- 46_bluenoise_dither.md R262 on an empty image: the texture is made, LAST_OP is 5. -/
theorem test_blue_status :
    statusAfter (exec .blue (seeded 7 1 1 State.reset)) = some 0x00005102#32 := by decide

/-- 95_test_vectors.md S18, for any noise source: OUT0, OUT2 and STATUS of ALL on one pixel. -/
theorem test_all_one_pixel :
    (next? (exec .all (seeded 1 1 1 (image 1 1 [200])))).map
      (fun t => (bytes t.bufs.out0, bytes t.bufs.out2, (readReg .status t).1)) =
      some ([255], [200], 0x00008102#32) := by decide +kernel

/-- 95_test_vectors.md S7: TEX_H = 65. -/
theorem test_all_texdim :
    statusAfter (exec .all (seeded 0 64 65 (image 1 1 [200]))) = some 0x00000034#32 := by decide

/-! ## The step -/

/-- The word placed for the fetch runs as the first command after reset. -/
theorem test_step_runs_fetched_word :
    statusAfter (step (State.reset.withFetchWord 32 2)) = some 0x00002002#32 ∧
    statusAfter (step (State.reset.withFetchWord 32 0x10)) = some 0x00000014#32 := by decide

/-- 95_test_vectors.md M1: a byte goes to IN[5]. -/
theorem test_port_write :
    (next? (hostWrite .bufData 0x1FF#32
        { State.reset with regs := { Regs.reset with bufAddr := 5 } })).map
      (fun t => (t.bufs.inp, t.regs.bufAddr)) = some ([(5, 0xFF#8)], 6#32) := by decide

/-- 95_test_vectors.md M6: a negative accumulator through the port. -/
theorem test_port_reads_acc :
    (readReg .bufData
      { State.reset with
        regs := { Regs.reset with bufSel := 7 }
        bufs := { Buffers.reset with acc := [(0, BitVec.ofInt 16 (-24))] } }).1 =
      0xFFFFFFE8#32 := by decide

/-- 95_test_vectors.md S16: STATUS is written while a job runs. -/
theorem test_status_write_while_busy :
    (next? (hostWrite .status 0x8#32
        { State.reset with status := { Status.reset with busy := true, wrbusy := true } })).map
      (fun t => (t.status.wrbusy, t.status.busy)) = some (false, true) := by decide

/-! ## Witnesses: states and operands that meet the hypotheses of the obligations -/

/-- A 3×3 image, a 1×1 texture asked for, the seed from register SEED. -/
def ready : State :=
  seeded 7 1 1 (image 3 3 (List.replicate 9 200))

/-- `ready` with a finished 1×1 texture. -/
def readyTex : State :=
  textured 1 1 0 [0] ready

/-- The same, with the next input coming before a job completes. -/
def eager : State :=
  { ready with env := { ready.env with overlap := true } }

/-- A machine with a finished texture on which a GRAY job has just been accepted. -/
def running : State :=
  accept .gray readyTex

/-- A state with the host's access as its next input. -/
def asked (op : BusOp) (addr : Nat) (size : AccessSize) (s : State) : State :=
  { s with
    env :=
      { s.env with
        inputs :=
          [.host
            { op := op
              addr := addr
              size := size } false] } }

theorem witness_DecoderIsTotal :
    (0x00000010#32).extractLsb' 4 28 ≠ 0#28 ∧ (0x80000000#32).extractLsb' 4 28 ≠ 0#28 ∧
    (∀ c : BitVec 4, (c.setWidth 32).extractLsb' 4 28 = 0#28 ∧
      (c.setWidth 32).setWidth 4 = c) ∧ 0x9#4 ≤ 0x9#4 ∧ 0x9#4 ≤ 0xF#4 := by decide

theorem witness_DecodeEncodeAgree :
    Instr.wellFormed .all = true ∧ decode 8#32 = .ok .all ∧
    decodeBytes [8#8, 0#8, 0#8, 0#8, 1#8] = .ok (.all, [1#8]) := by decide

theorem witness_StepRunsDecodedCommand :
    let s := asked (.write 4#32) 8 .word ready
    s.cfg.base % 4 = 0 ∧ decode 4#32 = .ok .fs ∧
    s.env.inputs =
      .host
        { op := .write 4#32
          addr := s.cfg.base + 0x008
          size := .word } false :: [] := by decide

theorem witness_FetchedWordRuns : State.reset.cfg.base % 4 = 0 := by decide

/-- Both ends of the window and of the reserved offsets. -/
theorem witness_StepPerformsRegisterAccess :
    (0x054 ≤ 0x054 ∧ 0x054 < 0x1000 ∧ 0x054 ≤ 0xFFC ∧ 0xFFC < 0x1000) ∧
    (∀ offset ∈ [0, 0x00C, 0xFFC], offset % 4 = 0 ∧ offset < 4096 ∧
      (asked .read offset .word ready).env.inputs =
        [.host
          { op := .read
            addr := ready.cfg.base + offset
            size := .word } false]) ∧
    (asked (.write 5) 0x010 .word ready).env.inputs =
      [.host
        { op := .write 5
          addr := ready.cfg.base + 0x010
          size := .word } false] := by decide

/-- One access for each clause, at the ends of the window. -/
theorem witness_OtherAccessesStop :
    (∀ addr ∈ [0, 4095], ready.cfg.base ≤ addr ∧ addr < ready.cfg.base + 4096) ∧
    ¬(ready.cfg.base ≤ 4096 ∧ 4096 < ready.cfg.base + 4096) ∧ 4095 % 4 ≠ 0 ∧
    (∀ size ∈ [AccessSize.byte, .half, .burst, .word],
      (asked .read 4095 size ready).env.inputs =
        [.host
          { op := .read
            addr := 4095
            size := size } false]) := by decide

theorem witness_EngineMovesWhenNothingElseDoes :
    running.env.inputs = [] ∧ ready.env.inputs = [] ∧ ready.status.busy = false ∧
    ({ running.env with inputs := [.engine, .reset] } : Env).inputs = .engine :: [.reset] := by
  decide

theorem witness_NopChangesNothing : ready.status.busy = false ∧ running.status.busy = true := by
  decide

theorem witness_CommandWhileBusySetsWrbusyOnly : running.status.busy = true := by decide

/-- Each rejection code. -/
theorem witness_RejectionSetsErrAndCodeOnly :
    ready.status.busy = false ∧ decode 9#32 = .error .reservedOp ∧
    rejectionCode .bayer (image 1025 1 []) = some 2#4 ∧
    rejectionCode .genTex (seeded 0 0 1 ready) = some 3#4 ∧
    rejectionCode .genTex (withCfg { Config.default with kradMax := 2 } ready) = some 4#4 ∧
    rejectionCode .blueDither ready = some 5#4 := by decide

theorem witness_AcceptanceOpensTheJob :
    Instr.all ≠ .nop ∧ eager.status.busy = false ∧ eager.env.overlap = true ∧
    checksPass .all eager := by decide

theorem witness_GrayCommandConvertsImage :
    ready.status.busy = false ∧ ready.env.overlap = false ∧ imageFits ready := by decide

/-- The largest image that fits. -/
theorem witness_BayerCommandThresholdsImage :
    let s := image 1024 1024 []
    s.status.busy = false ∧ s.env.overlap = false ∧ imageFits s := by decide

theorem witness_RandomCommandAddsNoise :
    ready.status.busy = false ∧ ready.env.overlap = false ∧ imageFits ready := by decide

/-- Pixel (0, 1) of the 3×3 image is visited, pixel (0, 0) is not. -/
theorem witness_FsCommandIsErrorDiffusion :
    ready.status.busy = false ∧ ready.env.overlap = false ∧ imageFits ready ∧
    visited (imageW ready) (imageH ready) 0 1 = true ∧
    visited (imageW ready) (imageH ready) 0 0 = false := by decide

theorem witness_GenTexCommandMakesTexture :
    ready.status.busy = false ∧ ready.env.overlap = false ∧ textureFits ready ∧
    kernelFits ready ∧ ready.cfg.noiseBitsOk = true := by decide

theorem witness_BlueDitherCommandTilesTexture :
    readyTex.status.busy = false ∧ readyTex.env.overlap = false ∧ imageFits readyTex ∧
    readyTex.status.texValid = true := by decide

theorem witness_BlueIsGenTexThenBlueDither :
    ready.status.busy = false ∧ ready.env.overlap = false ∧ imageFits ready ∧
    textureFits ready ∧ kernelFits ready := by decide

theorem witness_AllIsTheFourMethodsInSequence :
    ready.status.busy = false ∧ ready.env.overlap = false ∧ imageFits ready ∧
    textureFits ready ∧ kernelFits ready ∧ Memory.wf ready.bufs := by decide

theorem witness_GrayWeightsStayInRange :
    Config.default.grayWeightsOk = true ∧ Config.default.channelOrder = .bgr ∧
    ({ Config.default with channelOrder := .rgb } : Config).channelOrder = .rgb := by decide

theorem witness_BayerKeepsBinaryImages : (255#8 = 0 ∨ 255#8 = 255) ∧ (0#8 = 0 ∨ 0#8 = 255) := by
  decide

/-- A draw at the threshold of gray 128, and one below it. -/
theorem witness_RandomThresholdPerLevel :
    (255 - (128#8).toNat) * 2 ^ 16 / 255 + 1 ≤ 32640 ∧ randomOut 16 128 32639 ≠ 255 := by decide

/-- Two machines with one image and one seed, and different textures. -/
theorem witness_EqualSeedsGiveEqualNoise :
    ∃ t t', ready.cfg = readyTex.cfg ∧ imageW ready = imageW readyTex ∧
      imageH ready = imageH readyTex ∧ ready.status.busy = false ∧ ready.env.overlap = false ∧
      imageFits ready ∧ readyTex.status.busy = false ∧ readyTex.env.overlap = false ∧
      (∀ p, p < imageH ready * imageW ready → grayValue ready p = grayValue readyTex p) ∧
      exec .random ready = .next t ∧ exec .random readyTex = .next t' ∧
      t.res.seedUsed = t'.res.seedUsed :=
  ⟨_, _, rfl, rfl, rfl, rfl, rfl, by decide, rfl, rfl, by decide, rfl, rfl, by decide⟩

theorem witness_ThresholdAt128 :
    Config.default.fsThresh = .ge128 ∧
    ({ Config.default with fsThresh := .gt128 } : Config).fsThresh = .gt128 ∧
    (128 : Int) ≤ 128 ∧ (127 : Int) < 128 ∧ (128 : Int) < 129 := by decide

/-- Both roundings, and a tie: 24/16. -/
theorem witness_ShareIsRoundedSixteenths :
    Config.default.fsRound = .rntz ∧
    ({ Config.default with fsRound := .trunc } : Config).fsRound = .trunc ∧
    2 * (16 * share Config.default 24 1 - 24 * 1).natAbs = 16 := by decide

theorem witness_AccumulatorStaysInRange : 8 < imageH ready * imageW ready := by decide

/-- An image with a visited and a border pixel, and one too narrow for any visit. -/
theorem witness_FsBinaryInsideGrayAtBorder :
    ready.status.busy = false ∧ ready.env.overlap = false ∧ imageFits ready ∧
    ready.cfg.fsBorder = .raw ∧ isBorder (imageW ready) (imageH ready) 0 1 = false ∧
    isBorder (imageW ready) (imageH ready) 2 1 = true ∧
    imageFits (image 2 5 []) ∧ imageW (image 2 5 []) < 3 := by decide

theorem witness_ReflectionStaysInside : 1 ≤ 1 ∧ 1 ≤ 64 ∧ (0 : Int) ≤ 63 ∧ (63 : Int) < 64 := by
  decide

theorem witness_TextureIsNormalised :
    ready.status.busy = false ∧ ready.env.overlap = false ∧ textureFits ready ∧
    kernelFits ready := by decide

theorem witness_BlueOutputCornerCases : 0 ≤ 0 ∧ 160 ≤ 160 := by decide

/-- Reset arriving while a job runs. -/
theorem witness_ResetPutsTheBlockInItsResetState :
    ({ running with env := { running.env with inputs := [.reset] } } : State).env.inputs =
      .reset :: [] := by decide

theorem witness_ConfigurationReadsBack : ready.status.busy = false := by decide

theorem witness_ReadOnlyWritesIgnored :
    0x054 ≤ 0x054 ∧ 0x054 < 0x1000 ∧ 0x054 ≤ 0xFFC ∧ 0xFFC < 0x1000 := by decide

theorem witness_WritesWhileBusy :
    running.status.busy = true ∧ (next? (hostWrite .width 9 running)).isSome = true := by decide

theorem witness_StatusReadLayout : ready.status.busy = false := by decide

/-- A running job in a state whose STATUS agrees with it, and an engine step that does not complete
it. -/
theorem witness_ReadsWhileBusy :
    running.status.busy = true ∧ StatusOk running ∧
    (engineStep (hostRead .seedUsed running)).status.busy = true := by decide

/-- BUF_SEL 0, 6 and 7. -/
theorem witness_BufDataRead :
    ready.status.busy = false ∧ ready.regs.bufSel.toNat = 0 ∧
    (∀ n ∈ [6, 7],
      ({ ready.regs with bufSel := BitVec.ofNat 3 n } : Regs).bufSel.toNat = n) := by decide

/-- A write that stores, at the last element of IN, and one past it. -/
theorem witness_BufDataWrite :
    ready.status.busy = false ∧ ready.regs.bufSel = 0 ∧
    (3145727#32).toNat < capacity ready.cfg .inp ∧
    ¬(3145728#32).toNat < capacity ready.cfg .inp := by decide

theorem witness_OtherReadsHaveNoSideEffect :
    ready.status.busy = false ∧ Reg.status ≠ .bufData := by decide

theorem witness_WritersAreSeparate :
    (∃ t, exec .gray ready = .next t) ∧
    (∃ t, Reg.width ≠ .cmd ∧ hostWrite .width 5 ready = .next t) :=
  ⟨⟨_, rfl⟩, ⟨_, by decide, rfl⟩⟩

theorem witness_InterruptFollowsStatus :
    (∃ t, ready.status.busy = false ∧ hostWrite .ctrl 4 ready = .next t) ∧
    (∃ t, hostWrite .status 6 ready = .next t ∧ (6#32).getLsbD 1 = true ∧
      (6#32).getLsbD 2 = true) :=
  ⟨⟨_, rfl, rfl⟩, ⟨_, rfl, rfl, rfl⟩⟩

theorem witness_EngineStepProcessesOneElement :
    let s := engineStep running
    s.status.busy = true ∧ s.seq.entered = true ∧ s.seq.phase ≠ .fsScan ∧
    s.seq.phase ≠ .fsBorder ∧ s.seq.sx.toNat < gridW s.seq.phase s ∧
    s.seq.sy.toNat < gridH s.seq.phase s := by decide

theorem witness_CompletionAtOneInstant :
    let s := engineRun 10 running
    s.status.busy = true ∧ s.seq.entered = true ∧
    scanEnded s.seq.phase s s.seq.sy.toNat = true ∧
    (currentPhases s)[s.seq.pos + 1]? = none := by decide +kernel

theorem witness_SteppedJobEqualsWholeJob :
    Instr.fs ≠ .nop ∧ ready.status.busy = false ∧ checksPass .fs ready := by decide

theorem witness_AcceptedJobCompletes :
    ∃ a, Instr.gray ≠ .nop ∧ eager.status.busy = false ∧ eager.env.overlap = true ∧
      eager.env.inputs = [] ∧ checksPass .gray eager ∧ exec .gray eager = .next a :=
  ⟨_, by decide, rfl, rfl, rfl, by decide, rfl⟩

theorem witness_HostCannotDisturbARunningJob :
    ∃ t, running.status.busy = true ∧
      hostAccess
        { op := .write 5
          addr := 0x010
          size := .word } running = .next t :=
  ⟨_, rfl, rfl⟩

/-- A running job at its first phase is safe. -/
theorem running_safe : Safe running :=
  ⟨by decide, ⟨by decide, fun _ => ⟨.gray, by decide, by decide⟩⟩,
    fun _ ph h => by
      rw [show currentPhases running = [.grayconv] from rfl, List.mem_singleton] at h
      subst h
      show imageFits running
      decide,
    fun _ => by decide, by decide, by decide⟩

theorem witness_StepKeepsStatusConsistent :
    ∃ t, StatusOk running ∧ JobOk running ∧ step running = .next t :=
  ⟨_, running_safe.1, running_safe.2.1, rfl⟩

theorem witness_StepKeepsMemoryCanonical :
    ∃ t, Memory.wf running.bufs ∧ step running = .next t :=
  ⟨_, by decide, rfl⟩

theorem witness_StepKeepsEveryAccessInRange : ∃ t, Safe running ∧ step running = .next t :=
  ⟨_, running_safe, rfl⟩

theorem witness_ParametersNeverChange : ∃ t, step running = .next t :=
  ⟨_, rfl⟩

/-- A GEN_TEX job at the start of TEX_BLUR. -/
def blurring : State :=
  pointAtPhase .texBlur 1
    { accept .genTex readyTex with status := { running.status with texValid := false } }

theorem blurring_safe : Safe blurring :=
  ⟨by decide, ⟨by decide, fun _ => ⟨.genTex, by decide, by decide⟩⟩,
    fun _ ph h => by
      rw [show currentPhases blurring = [.texFill, .texBlur, .texNorm] from rfl] at h
      simp only [List.mem_cons, List.not_mem_nil, or_false] at h
      rcases h with rfl | rfl | rfl <;> (show textureFits blurring; decide),
    fun _ => by decide, by decide, by decide⟩

/-- A running job in a texture phase. -/
theorem witness_ValidTextureHasASize_blur :
    ∃ t, Safe blurring ∧ blurring.status.busy = true ∧ blurring.seq.phase = .texBlur ∧
      1 ≤ blurring.res.twl.toNat ∧ 1 ≤ blurring.res.thl.toNat ∧
      blurring.status.texValid = false ∧ step blurring = .next t :=
  ⟨_, blurring_safe, by decide, by decide, by decide, by decide, by decide, rfl⟩

/-- A machine with a valid texture and a running job. -/
theorem witness_ValidTextureHasASize :
    ∃ s t, Safe s ∧ s.status.texValid = true ∧
      (s.status.texValid = true → 1 ≤ s.res.twl.toNat ∧ 1 ≤ s.res.thl.toNat) ∧
      (s.status.busy = true → s.seq.phase = .texBlur ∨ s.seq.phase = .texNorm →
        1 ≤ s.res.twl.toNat ∧ 1 ≤ s.res.thl.toNat) ∧
      (s.status.busy = true → s.seq.phase = .texFill → s.seq.entered = true →
        1 ≤ s.res.twl.toNat ∧ 1 ≤ s.res.thl.toNat) ∧
      step s = .next t :=
  ⟨running, _, running_safe, by decide, by decide, by decide, by decide, rfl⟩

/-- Both formats of the image. -/
theorem witness_OperandsAreTheConfigurationRegisters :
    ready.regs.inFmt = true ∧ State.reset.regs.inFmt = false := by decide

/-- The corners of V and of the border of a 3×3 image, and the two degenerate sizes. -/
theorem witness_VisitedPixelsAreRowsAndInnerColumns :
    visited 3 3 0 1 = true ∧ visited 3 3 1 1 = true ∧ visited 3 3 2 1 = false ∧
    isBorder 3 3 2 2 = true ∧ isBorder 3 3 1 1 = false ∧ (2 < 3 ∧ 1 < 2) ∧ 2 < 3 := by decide

end Sys2Proof.Tests
end

section
/-! The implementation parameters along a step: no operation of the block writes them (00_scope.md
R7), and the threshold ROM is a function of one of them (10_state.md R61). -/

namespace Sys2Proof.Machine

@[simp] theorem writeStatus_cfg (v : Word) (s : State) : (writeStatus v s).cfg = s.cfg := by
  rw [writeStatus_eq]

@[simp] theorem portWrite_cfg (v : Word) (s : State) : (portWrite v s).cfg = s.cfg := by
  rcases portWrite_cases v s with h | ⟨-, h⟩ <;> simp [h]

@[simp] theorem hostRead_cfg (r : Reg) (s : State) : (hostRead r s).cfg = s.cfg := by
  obtain ⟨a, h, -⟩ := hostRead_eq r s
  rw [h]

@[simp] theorem enterPhase_cfg (s : State) : (enterPhase s).cfg = s.cfg :=
  startPhase_cfg s s.seq.phase

@[simp] theorem processElement_cfg (s : State) : (processElement s).cfg = s.cfg :=
  stepElement_cfg s.seq.phase s.seq.sy.toNat s.seq.sx.toNat s

@[simp] theorem leavePhase_cfg (s : State) : (leavePhase s).cfg = s.cfg := by
  rcases leavePhase_cases s with ⟨ph, -, h⟩ | ⟨-, h⟩ <;> simp [h]

@[simp] theorem engineStep_cfg (s : State) : (engineStep s).cfg = s.cfg := by
  rcases engineStep_cases s with ⟨-, h⟩ | ⟨-, -, h⟩ | ⟨-, -, -, h⟩ | ⟨-, -, -, h⟩ <;> simp [h]

theorem exec_cfg {i : Instr} {s t : State} (h : exec i s = .next t) : t.cfg = s.cfg := by
  rcases exec_cases h with ⟨-, rfl⟩ | ⟨-, -, rfl⟩ | ⟨-, -, c, rfl⟩ | ⟨-, -, -, -, rfl⟩ |
    ⟨-, -, -, -, rfl⟩ <;> simp

theorem issueWord_cfg {w : Word} {s t : State} (hb : s.status.busy = false)
    (h : issueWord w s = .next t) : t.cfg = s.cfg := by
  rcases issueWord_cases hb h with ⟨e, -, rfl⟩ | ⟨i, -, hi⟩
  · exact reject_cfg .cmd s
  · exact exec_cfg hi

theorem hostWrite_cfg {r : Reg} {v : Word} {s t : State} (h : hostWrite r v s = .next t) :
    t.cfg = s.cfg := by
  rcases hostWrite_cases h with ⟨-, rfl⟩ | ⟨hb, -, hw⟩ | ⟨-, rfl⟩ | ⟨-, -, rfl⟩ | ⟨-, ht⟩ |
    ⟨-, -, rfl⟩
  · exact markWriteBusy_cfg s
  · exact issueWord_cfg hb hw
  · exact writeStatus_cfg v s
  · exact portWrite_cfg v s
  · rw [ht]
  · rfl

theorem hostAccess_cfg {a : BusAccess} {s t : State} (h : hostAccess a s = .next t) :
    t.cfg = s.cfg := by
  obtain ⟨r, ⟨-, rfl⟩ | ⟨v, -, hw⟩⟩ := hostAccess_cases h
  · exact hostRead_cfg r s
  · exact hostWrite_cfg hw

/-- Whatever the next input is, an engine step, a host access or a reset, the parameters stay. -/
theorem step_cfg {s t : State} (h : step s = .next t) : t.cfg = s.cfg := by
  rcases step_cases h with ⟨-, rfl⟩ | ⟨i, rest, -, ⟨-, rfl⟩ | ⟨-, rfl⟩ | ⟨a, overlap, -, ha⟩⟩
  · exact engineStep_cfg s
  · exact engineStep_cfg _
  · exact resetBlock_cfg _
  · simpa using hostAccess_cfg ha

/-- Settles O57: the ROM has no state of its own, so it follows the parameters. -/
theorem parametersNeverChange : Obligations.ParametersNeverChange := by
  intro s t h
  have hcfg : t.cfg = s.cfg := step_cfg h
  exact ⟨hcfg, fun i j => by rw [hcfg]⟩

end Sys2Proof.Machine
end

section
/-! The register window: what a host write of each kind of register does, busy or idle, what STATUS
shows, and the interrupt line (10_state.md R32 to R50, R65). -/

namespace Sys2Proof.Machine

/-! Writes of CMD. -/

/-- Every command, NOP too, is turned away while BUSY (10_state.md R50). -/
theorem exec_busy {i : Instr} {s : State} (hb : s.status.busy = true) :
    exec i s = .next (markWriteBusy s) := by
  by_cases hi : i = .nop
  · subst hi
    simp [exec, execNop, hb]
  · rw [exec_eq_issueJob hi]
    simp [issueJob, hb]

/-- A decodable word acts as its command, while BUSY too: undecoded, it does what the command
would. -/
theorem issueWord_of_decode {w : Word} {i : Instr} (h : decode w = .ok i) (s : State) :
    issueWord w s = exec i s := by
  cases hb : s.status.busy
  · simp [issueWord, hb, h]
  · rw [exec_busy hb]
    simp [issueWord, hb]

theorem hostWrite_cmd (w : Word) (s : State) : hostWrite .cmd w s = issueWord w s := by
  cases hb : s.status.busy <;> simp [hostWrite, issueWord, guardedWhileBusy, hb]

/-- Settles O10: `markWriteBusy` is that state. -/
theorem commandWhileBusySetsWrbusyOnly : Obligations.CommandWhileBusySetsWrbusyOnly :=
  fun _ _ hb => exec_busy hb

/-- A host write of a command word to CMD runs the command. -/
theorem hostAccess_commandWrite {w : Word} {i : Instr} {s : State} (hb : s.cfg.base % 4 = 0)
    (hdec : decode w = .ok i) : hostAccess (commandWrite s.cfg w) s = exec i s :=
  calc hostAccess (commandWrite s.cfg w) s
      = hostWrite .cmd w s := hostAccess_word hb (by decide) (by decide)
    _ = issueWord w s := hostWrite_cmd w s
    _ = exec i s := issueWord_of_decode hdec s

/-- Settles O4: the next input is the access of `hostAccess_commandWrite`. -/
theorem stepRunsDecodedCommand : Obligations.StepRunsDecodedCommand := by
  intro s rest w i overlap hbase hin hdec
  have hstep : step s =
      hostAccess (commandWrite s.cfg w)
        (beginAccess (.write w) overlap { s with env := { s.env with inputs := rest } }) := by
    simp only [step, stepOnce, hin, takeInput]
    rfl
  exact hstep.trans (hostAccess_commandWrite
    (s := beginAccess (.write w) overlap { s with env := { s.env with inputs := rest } })
    hbase hdec)

/-! Writes of the other registers. -/

theorem hostWrite_guarded_busy {r : Reg} (hr : guardedWhileBusy r = true) (v : Word) {s : State}
    (hb : s.status.busy = true) : hostWrite r v s = .next (markWriteBusy s) := by
  simp [hostWrite, hr, hb]

theorem hostWrite_status (v : Word) (s : State) :
    hostWrite .status v s = .next (writeStatus v s) :=
  rfl

/-- The registers whose writes are not guarded are STATUS and the read-only ones: a write of these
is ignored (10_state.md R33, R43 to R45, R49). -/
theorem hostWrite_readOnly {r : Reg} (hr : guardedWhileBusy r = false) (hs : r ≠ .status)
    (v : Word) (s : State) : hostWrite r v s = .next s := by
  cases r
  case status => exact absurd rfl hs
  case id | seedUsed | texRangeLo | texRangeHi | texDimL | reserved => rfl
  all_goals cases hr

theorem regAt_reserved {offset : Nat} (h : 0x054 ≤ offset) : regAt offset = .reserved := by
  unfold regAt
  split
  case h_22 => rfl
  all_goals omega

/-- Settles O37: none of these registers is guarded, and the reserved offsets are one register. -/
theorem readOnlyWritesIgnored : Obligations.ReadOnlyWritesIgnored := by
  refine fun s v => ⟨fun r hr => ?_, rfl, rfl, fun offset hlo _ => ?_⟩
  · rcases hr with rfl | rfl | rfl | rfl | rfl | rfl <;>
      exact hostWrite_readOnly rfl (by decide) v s
  · rw [regAt_reserved hlo]
    exact ⟨rfl, hostWrite_readOnly rfl (by decide) v s⟩

/-- Settles O39, by the value of each written W1C bit. -/
theorem statusWriteOneToClear : Obligations.StatusWriteOneToClear := by
  intro s v
  rw [hostWrite_status, writeStatus_eq]
  cases v.getLsbD 1 <;> cases v.getLsbD 2 <;> cases v.getLsbD 3 <;> simp

/-! The configuration along a step. -/

theorem writeStatus_regs (v : Word) (s : State) : (writeStatus v s).regs = s.regs := by
  rw [writeStatus_eq]

theorem hostWrite_regs_busy {r : Reg} {v : Word} {s t : State} (hb : s.status.busy = true)
    (h : hostWrite r v s = .next t) : t.regs = s.regs := by
  rcases hostWrite_cases h with ⟨-, rfl⟩ | ⟨hidle, -, -⟩ | ⟨-, rfl⟩ | ⟨hidle, -, -⟩ |
    ⟨hidle, -⟩ | ⟨-, -, rfl⟩
  · rfl
  · simp [hb] at hidle
  · exact writeStatus_regs v s
  · simp [hb] at hidle
  · simp [hb] at hidle
  · rfl

/-- While BUSY not even a read of BUF_DATA moves BUF_ADDR. -/
theorem hostRead_regs_busy (r : Reg) {s : State} (hb : s.status.busy = true) :
    (hostRead r s).regs = s.regs := by
  obtain ⟨a, hr, ha⟩ := hostRead_eq r s
  rw [hr, ha (.inr hb)]

theorem hostAccess_regs_busy {a : BusAccess} {s t : State} (hb : s.status.busy = true)
    (h : hostAccess a s = .next t) : t.regs = s.regs := by
  obtain ⟨r, ⟨-, rfl⟩ | ⟨v, -, hw⟩⟩ := hostAccess_cases h
  · exact hostRead_regs_busy r hb
  · exact hostWrite_regs_busy hb hw

@[simp] theorem enterPhase_regs (s : State) : (enterPhase s).regs = s.regs :=
  startPhase_regs s s.seq.phase

@[simp] theorem processElement_regs (s : State) : (processElement s).regs = s.regs :=
  stepElement_regs s.seq.phase s.seq.sy.toNat s.seq.sx.toNat s

@[simp] theorem leavePhase_regs (s : State) : (leavePhase s).regs = s.regs := by
  rcases leavePhase_cases s with ⟨ph, -, h⟩ | ⟨-, h⟩ <;> simp [h]

@[simp] theorem engineStep_regs (s : State) : (engineStep s).regs = s.regs := by
  rcases engineStep_cases s with ⟨-, h⟩ | ⟨-, -, h⟩ | ⟨-, -, -, h⟩ | ⟨-, -, -, h⟩ <;> simp [h]

/-- While a job runs, only reset changes a configuration register (10_state.md R50). -/
theorem step_regs_busy {s t : State} (hb : s.status.busy = true)
    (hr : ∀ rest, s.env.inputs ≠ .reset :: rest) (h : step s = .next t) : t.regs = s.regs := by
  rcases step_cases h with ⟨-, rfl⟩ | ⟨i, rest, hin, ⟨-, rfl⟩ | ⟨rfl, -⟩ | ⟨a, overlap, -, ha⟩⟩
  · exact engineStep_regs s
  · exact engineStep_regs _
  · exact absurd hin (hr rest)
  · simpa using hostAccess_regs_busy (by simpa using hb) ha

/-- Settles O38: the fifteen registers are the guarded ones. -/
theorem writesWhileBusy : Obligations.WritesWhileBusy := by
  refine fun s v hb => ⟨fun r hr => ?_, hostWrite_status v s, fun r hr => ?_,
    fun _ _ => hostWrite_regs_busy hb, fun _ hr h => step_regs_busy hb hr h⟩
  · have hg : guardedWhileBusy r = true := by
      rcases hr with rfl | rfl | rfl | rfl | rfl | rfl | rfl | rfl | rfl | rfl | rfl | rfl | rfl |
        rfl | rfl <;> rfl
    exact hostWrite_guarded_busy hg v hb
  · exact (readOnlyWritesIgnored s v).1 r hr

/-! STATUS and the interrupt line. -/

/-- The STATUS word as its nine fields, each with its own width: the lemmas about `++` take this
form apart, which a word of 32 bits hides. -/
theorem statusWord_extractLsb' (st : Status) (b : Bool) (start len : Nat) :
    (statusWord st b).extractLsb' start len =
      (0#16 ++ st.lastOp ++ 0#3 ++ BitVec.ofBool b ++ st.errCode ++ BitVec.ofBool st.wrbusy ++
        BitVec.ofBool st.err ++ BitVec.ofBool st.done ++
          BitVec.ofBool st.busy).extractLsb' start len :=
  rfl

/-- Where the fields of STATUS stand in its word (10_state.md R36). -/
theorem statusWord_fields (st : Status) (b : Bool) :
    (statusWord st b).getLsbD 0 = st.busy ∧ (statusWord st b).getLsbD 1 = st.done ∧
    (statusWord st b).getLsbD 2 = st.err ∧ (statusWord st b).getLsbD 3 = st.wrbusy ∧
    (statusWord st b).extractLsb' 4 4 = st.errCode ∧ (statusWord st b).getLsbD 8 = b ∧
    (statusWord st b).extractLsb' 9 3 = 0 ∧ (statusWord st b).extractLsb' 12 4 = st.lastOp ∧
    (statusWord st b).extractLsb' 16 16 = 0 := by
  have hbit : ∀ x : Bool, (BitVec.ofBool x == 1#1) = x := by decide
  simp (disch := omega) only [BitVec.getLsbD_eq_extractLsb', statusWord_extractLsb',
    BitVec.extractLsb'_append_eq_of_le, BitVec.extractLsb'_append_eq_of_add_le, -Nat.reduceAdd]
  simp [hbit]

/-- Settles O40: a read of STATUS returns the STATUS word, with a TEX_VALID bit of its own while
BUSY. -/
theorem statusReadLayout : Obligations.StatusReadLayout := by
  intro s
  obtain ⟨hbusy, hdone, herr, hwr, hcode, hvalid, hlow, hop, hhigh⟩ :=
    statusWord_fields s.status
      (if s.status.busy then (busyValue .status s).getLsbD 0 else s.status.texValid)
  exact ⟨hbusy, hdone, herr, hwr, hcode, fun hb => hvalid.trans (by simp [hb]), hlow, hop, hhigh⟩

/-- Settles O46: each event's STATUS fields, put into the line's formula. -/
theorem interruptFollowsStatus : Obligations.InterruptFollowsStatus := by
  refine ⟨fun _ => rfl, rfl, fun s => ?_, fun c s => ?_, fun i s => ?_, fun s v t hb h => ?_,
    fun s v t h hdone herr => ?_⟩
  · simp [irq, completeStatus]
  · simp [irq]
  · simp [irq, acceptStatus]
  · have ht : hostWrite .ctrl v s = .next (setConfig .ctrl v s) := by
      simp [hostWrite, hb]
    rw [ht] at h
    cases h
    rfl
  · rw [hostWrite_status, writeStatus_eq] at h
    cases h
    simp [irq, hdone, herr]

end Sys2Proof.Machine
end

section
/-! The state after reset: what its registers read, and that it is safe (10_state.md R32, R70). -/

namespace Sys2Proof.Machine

/-- Settles O34: a finite table, read off the reset state. -/
theorem registersAfterReset : Obligations.RegistersAfterReset :=
  ⟨by decide, rfl, rfl⟩

/-- Whatever the parameters, a state whose registers, buffers and sequencer have their reset values
is safe. -/
theorem safe_of_reset {s : State} (hst : s.status = .reset) (hres : s.res = .reset)
    (hbuf : s.bufs = .reset) (hseq : s.seq = .reset) : Safe s := by
  have hidle : s.status.busy = false := by rw [hst]; rfl
  have hjob : JobOk s := ⟨fun _ => by rw [hseq]; rfl, fun hb => by simp [hidle] at hb⟩
  refine ⟨?_, hjob, fun hb => ?_, fun hb => ?_, ?_, ?_⟩
  · rw [StatusOk, hst]
    decide
  · simp [hidle] at hb
  · simp [hidle] at hb
  · simp [BuffersOk, hbuf, hres, Buffers.reset, Results.reset]
  · rw [hbuf]
    exact reset_memory_wf

/-- Settles O53, with the default parameters. -/
theorem resetStateIsSafe : Obligations.ResetStateIsSafe :=
  safe_of_reset rfl rfl rfl rfl

theorem resetBlock_safe (s : State) : Safe (resetBlock s) :=
  safe_of_reset rfl rfl rfl rfl

end Sys2Proof.Machine
end

section
/-! The job that runs and STATUS along a step. What the engine does inside a job leaves the job and
STATUS, but for TEX_VALID, as they are (`SameJob`); so STATUS and the sequencer agree after every
step (10_state.md R36, R63, 60_exceptions.md R301). -/

namespace Sys2Proof.Machine

/-- The same job stands at the same phase, and STATUS differs at most in TEX_VALID. -/
structure SameJob (s t : State) : Prop where
  cfg : t.cfg = s.cfg
  status : t.status = { s.status with texValid := t.status.texValid }
  curOp : t.seq.curOp = s.seq.curOp
  pos : t.seq.pos = s.seq.pos
  phase : t.seq.phase = s.seq.phase

theorem SameJob.rfl {s : State} : SameJob s s :=
  ⟨.refl _, .refl _, .refl _, .refl _, .refl _⟩

theorem SameJob.trans {s t u : State} (h : SameJob s t) (k : SameJob t u) : SameJob s u where
  cfg := k.cfg.trans h.cfg
  status := by rw [k.status, h.status]
  curOp := k.curOp.trans h.curOp
  pos := k.pos.trans h.pos
  phase := k.phase.trans h.phase

theorem SameJob.busy {s t : State} (h : SameJob s t) : t.status.busy = s.status.busy := by
  rw [h.status]

theorem SameJob.statusOk {s t : State} (h : SameJob s t) (hs : StatusOk s) : StatusOk t := by
  rw [StatusOk, h.status]
  exact hs

/-- JobOk reads the parameters, BUSY, and the job's op, list position and phase only. -/
theorem jobOk_congr {s t : State} (hc : t.cfg = s.cfg) (hb : t.status.busy = s.status.busy)
    (ho : t.seq.curOp = s.seq.curOp) (hp : t.seq.pos = s.seq.pos)
    (hph : t.seq.phase = s.seq.phase) (hs : JobOk s) : JobOk t := by
  rw [JobOk, hc, hb, ho, hp, hph]
  exact hs

theorem SameJob.jobOk {s t : State} (h : SameJob s t) (hs : JobOk s) : JobOk t :=
  jobOk_congr h.cfg h.busy h.curOp h.pos h.phase hs

/-! What the engine does inside a job. -/

theorem reseed_sameJob (s : State) : SameJob s (reseed s) := by
  unfold reseed
  split <;> exact ⟨rfl, rfl, rfl, rfl, rfl⟩

theorem startTexFill_sameJob (s : State) : SameJob s (startTexFill s) := by
  unfold startTexFill
  refine SameJob.trans ?_ (reseed_sameJob _)
  exact ⟨rfl, rfl, rfl, rfl, rfl⟩

theorem startPhase_sameJob (ph : Phase) (s : State) : SameJob s (startPhase ph s) := by
  cases ph
  case random => exact reseed_sameJob s
  case texFill => exact startTexFill_sameJob s
  all_goals exact ⟨rfl, rfl, rfl, rfl, rfl⟩

theorem stepElement_sameJob (ph : Phase) (y x : Nat) (s : State) :
    SameJob s (stepElement ph y x s) := by
  obtain ⟨lo, hi, hseq, -⟩ := stepElement_seq ph y x s
  exact ⟨stepElement_cfg ph y x s, by simp, by rw [hseq], by rw [hseq], by rw [hseq]⟩

theorem finishPhase_sameJob (ph : Phase) (s : State) : SameJob s (finishPhase ph s) := by
  cases ph <;> exact ⟨rfl, rfl, rfl, rfl, rfl⟩

theorem runElements_sameJob (ph : Phase) (l : List (Nat × Nat)) (s : State) :
    SameJob s (runElements ph l s) :=
  runElements_keeps ph l (fun y x t h => h.trans (stepElement_sameJob ph y x t)) .rfl

theorem runPhase_sameJob (ph : Phase) (s : State) : SameJob s (runPhase ph s) :=
  (startPhase_sameJob ph s).trans
    ((runElements_sameJob ph _ _).trans (finishPhase_sameJob ph _))

theorem runPhases_sameJob (l : List Phase) (s : State) : SameJob s (runPhases l s) :=
  runPhases_keeps l (fun ph t h => h.trans (runPhase_sameJob ph t)) .rfl

theorem enterPhase_sameJob (s : State) : SameJob s (enterPhase s) :=
  (startPhase_sameJob s.seq.phase s).trans ⟨rfl, rfl, rfl, rfl, rfl⟩

theorem processElement_sameJob (s : State) : SameJob s (processElement s) :=
  (stepElement_sameJob s.seq.phase _ _ s).trans ⟨rfl, rfl, rfl, rfl, rfl⟩

/-! Acceptance, completion and rejection. -/

/-- Acceptance points at the head of the list, and every command but NOP has one. -/
theorem phaseList_head {i : Instr} (hi : i ≠ .nop) (c : Config) :
    (phaseList c i)[0]? = some ((phaseList c i).headD .idle) := by
  cases i
  case nop => exact absurd rfl hi
  all_goals rfl

theorem opOfCode_opCode (i : Instr) : opOfCode (opCode i) = some i := by
  cases i <;> rfl

theorem opOfCode_le {c : BitVec 4} {i : Instr} (h : opOfCode c = some i) : c.toNat ≤ 8 := by
  unfold opOfCode at h
  split at h
  case h_10 => cases h
  all_goals omega

theorem accept_statusOk {i : Instr} {s : State} (h : StatusOk s) : StatusOk (accept i s) := by
  obtain ⟨-, -, hlast, -⟩ := h
  exact ⟨fun _ => rfl, nofun, hlast, fun _ => ⟨rfl, rfl⟩⟩

theorem accept_jobOk {i : Instr} (hi : i ≠ .nop) (s : State) : JobOk (accept i s) :=
  ⟨nofun, fun _ => ⟨i, opOfCode_opCode i, phaseList_head hi s.cfg⟩⟩

/-- Completion writes the running job's op code to LAST_OP. -/
theorem complete_statusOk {i : Instr} {s : State} (hop : opOfCode s.seq.curOp = some i)
    (h : StatusOk s) : StatusOk (complete s) := by
  obtain ⟨hnone, hsome, -, -⟩ := h
  exact ⟨hnone, hsome, opOfCode_le hop, nofun⟩

theorem complete_jobOk (s : State) : JobOk (complete s) :=
  ⟨fun _ => rfl, nofun⟩

theorem errorCode_number_range (c : ErrorCode) : 1 ≤ c.number.toNat ∧ c.number.toNat ≤ 5 := by
  cases c <;> decide

theorem reject_statusOk {c : ErrorCode} {s : State} (hb : s.status.busy = false)
    (h : StatusOk s) : StatusOk (reject c s) := by
  obtain ⟨-, -, hlast, -⟩ := h
  exact ⟨nofun, fun _ => errorCode_number_range c, hlast, fun hb' => by simp [hb] at hb'⟩

/-! Every host access. -/

/-- STATUS and the sequencer are consistent. -/
abbrev JobConsistent (s : State) : Prop :=
  StatusOk s ∧ JobOk s

theorem SameJob.consistent {s t : State} (h : SameJob s t) (hs : JobConsistent s) :
    JobConsistent t :=
  ⟨h.statusOk hs.1, h.jobOk hs.2⟩

theorem markWriteBusy_consistent {s : State} (h : JobConsistent s) :
    JobConsistent (markWriteBusy s) := h

theorem reject_consistent {c : ErrorCode} {s : State} (hb : s.status.busy = false)
    (h : JobConsistent s) : JobConsistent (reject c s) :=
  ⟨reject_statusOk hb h.1, h.2⟩

theorem accept_consistent {i : Instr} (hi : i ≠ .nop) {s : State} (h : JobConsistent s) :
    JobConsistent (accept i s) :=
  ⟨accept_statusOk h.1, accept_jobOk hi s⟩

theorem complete_consistent {i : Instr} {s : State} (hop : opOfCode s.seq.curOp = some i)
    (h : JobConsistent s) : JobConsistent (complete s) :=
  ⟨complete_statusOk hop h.1, complete_jobOk s⟩

theorem exec_consistent {i : Instr} {s t : State} (hs : JobConsistent s)
    (h : exec i s = .next t) : JobConsistent t := by
  rcases exec_cases h with ⟨-, rfl⟩ | ⟨-, -, rfl⟩ | ⟨hb, -, c, rfl⟩ | ⟨-, hi, -, -, rfl⟩ |
    ⟨-, hi, -, -, rfl⟩
  · exact markWriteBusy_consistent hs
  · exact hs
  · exact reject_consistent hb hs
  · exact accept_consistent hi hs
  · have hjob := runPhases_sameJob (phaseList s.cfg i) (accept i s)
    have hop : opOfCode (runPhases (phaseList s.cfg i) (accept i s)).seq.curOp = some i := by
      rw [hjob.curOp]
      exact opOfCode_opCode i
    exact complete_consistent hop (hjob.consistent (accept_consistent hi hs))

theorem issueWord_consistent {w : Word} {s t : State} (hb : s.status.busy = false)
    (hs : JobConsistent s) (h : issueWord w s = .next t) : JobConsistent t := by
  rcases issueWord_cases hb h with ⟨e, -, rfl⟩ | ⟨i, -, hi⟩
  · exact reject_consistent hb hs
  · exact exec_consistent hs hi

/-- A STATUS write clears ERRCODE together with ERR, so the two stay in agreement. -/
theorem writeStatus_consistent (v : Word) {s : State} (h : JobConsistent s) :
    JobConsistent (writeStatus v s) := by
  obtain ⟨⟨hnone, hsome, hlast, hrun⟩, hjob⟩ := h
  rw [writeStatus_eq]
  refine ⟨⟨?_, ?_, hlast, fun hb => ?_⟩, hjob⟩
  · cases v.getLsbD 2
    · exact hnone
    · exact fun _ => rfl
  · cases v.getLsbD 2
    · exact hsome
    · exact nofun
  · obtain ⟨hdone, herr⟩ := hrun hb
    simp [hdone, herr]

theorem portWrite_consistent (v : Word) {s : State} (h : JobConsistent s) :
    JobConsistent (portWrite v s) := by
  rcases portWrite_cases v s with hw | ⟨-, hw⟩ <;> rw [hw] <;> exact h

theorem hostRead_consistent (r : Reg) {s : State} (h : JobConsistent s) :
    JobConsistent (hostRead r s) := by
  obtain ⟨a, hr, -⟩ := hostRead_eq r s
  rw [hr]
  exact h

theorem hostWrite_consistent {r : Reg} {v : Word} {s t : State} (hs : JobConsistent s)
    (h : hostWrite r v s = .next t) : JobConsistent t := by
  rcases hostWrite_cases h with ⟨-, rfl⟩ | ⟨hb, -, hw⟩ | ⟨-, rfl⟩ | ⟨-, -, rfl⟩ | ⟨-, ht⟩ |
    ⟨-, -, rfl⟩
  · exact markWriteBusy_consistent hs
  · exact issueWord_consistent hb hs hw
  · exact writeStatus_consistent v hs
  · exact portWrite_consistent v hs
  · rw [ht]; exact hs
  · exact hs

theorem beginAccess_consistent (op : BusOp) (o : Bool) {s : State} (h : JobConsistent s) :
    JobConsistent (beginAccess op o s) := by
  cases op <;> exact h

theorem hostAccess_consistent {a : BusAccess} {s t : State} (hs : JobConsistent s)
    (h : hostAccess a s = .next t) : JobConsistent t := by
  obtain ⟨r, ⟨-, rfl⟩ | ⟨v, -, hw⟩⟩ := hostAccess_cases h
  · exact hostRead_consistent r hs
  · exact hostWrite_consistent hs hw

/-! The engine and the step. -/

/-- The phases of the running job, when CUR_OP is an op code. -/
theorem currentPhases_of_op {s : State} {i : Instr} (h : opOfCode s.seq.curOp = some i) :
    currentPhases s = phaseList s.cfg i := by
  simp [currentPhases, h]

theorem leavePhase_consistent {s : State} (hb : s.status.busy = true) (hs : JobConsistent s) :
    JobConsistent (leavePhase s) := by
  have hfin := finishPhase_sameJob s.seq.phase s
  obtain ⟨i, hop, -⟩ := hs.2.2 hb
  have hop' : opOfCode (finishPhase s.seq.phase s).seq.curOp = some i := by rwa [hfin.curOp]
  rcases leavePhase_cases s with ⟨ph, hph, h⟩ | ⟨-, h⟩
  · rw [currentPhases_of_op hop, ← hfin.cfg] at hph
    rw [h]
    exact ⟨hfin.statusOk hs.1, fun hidle => by simp [hfin.busy, hb] at hidle,
      fun _ => ⟨i, hop', hph⟩⟩
  · rw [h]
    exact complete_consistent hop' (hfin.consistent hs)

theorem engineStep_consistent {s : State} (hs : JobConsistent s) :
    JobConsistent (engineStep s) := by
  rcases engineStep_cases s with ⟨-, h⟩ | ⟨-, -, h⟩ | ⟨-, -, -, h⟩ | ⟨hb, -, -, h⟩ <;> rw [h]
  · exact hs
  · exact (enterPhase_sameJob s).consistent hs
  · exact (processElement_sameJob s).consistent hs
  · exact leavePhase_consistent hb hs

theorem resetBlock_consistent (s : State) : JobConsistent (resetBlock s) :=
  have ⟨hstatus, hjob, _⟩ := resetBlock_safe s
  ⟨hstatus, hjob⟩

theorem step_consistent {s t : State} (hs : JobConsistent s) (h : step s = .next t) :
    JobConsistent t := by
  rcases step_cases h with ⟨-, rfl⟩ | ⟨i, rest, -, ⟨-, rfl⟩ | ⟨-, rfl⟩ | ⟨a, overlap, -, ha⟩⟩
  · exact engineStep_consistent hs
  · exact engineStep_consistent (s := { s with env := { s.env with inputs := rest } }) hs
  · exact resetBlock_consistent _
  · exact hostAccess_consistent (beginAccess_consistent a.op overlap
      (s := { s with env := { s.env with inputs := rest } }) hs) ha

/-- Settles O54: one lemma for each operation of a step, and `SameJob` for all the engine does inside
a job. -/
theorem stepKeepsStatusConsistent : Obligations.StepKeepsStatusConsistent :=
  fun _ _ hstatus hjob h => step_consistent ⟨hstatus, hjob⟩ h

end Sys2Proof.Machine
end

section
/-! The size of a valid texture. TEX_VALID rises only at the end of TEX_NORM, TEX_BLUR and TEX_NORM
follow a texture phase in every phase list, and TEX_FILL latches a size that the checks at issue
have found positive (10_state.md R36, R45, 45_bluenoise_texture.md R233, R236). -/

namespace Sys2Proof.Machine

/-- The latched texture size is positive. -/
abbrev TextureSized (s : State) : Prop :=
  1 ≤ s.res.twl.toNat ∧ 1 ≤ s.res.thl.toNat

/-- A texture phase that has latched the size stands in the sequencer: TEX_FILL once entered, and
the two phases after it. -/
abbrev SizeLatched (s : State) : Prop :=
  s.seq.phase = .texBlur ∨ s.seq.phase = .texNorm ∨
    (s.seq.phase = .texFill ∧ s.seq.entered = true)

/-- The latched size is positive wherever the texture counts: while TEX_VALID is 1, and while a
texture phase that has latched it runs. -/
structure TextureOk (s : State) : Prop where
  valid : s.status.texValid = true → TextureSized s
  latched : s.status.busy = true → SizeLatched s → TextureSized s

theorem TextureSized.ok {s : State} (h : TextureSized s) : TextureOk s :=
  ⟨fun _ => h, fun _ _ => h⟩

/-- The latched dimensions of `s` and of `t` are the same. -/
abbrev SameSize (s t : State) : Prop :=
  t.res.twl = s.res.twl ∧ t.res.thl = s.res.thl

theorem SameSize.sized {s t : State} (h : SameSize s t) (hs : TextureSized s) :
    TextureSized t := by
  rwa [TextureSized, h.1, h.2]

/-- What keeps the size, raises no TEX_VALID and brings no phase that has latched the size, keeps
the size of a texture positive. -/
theorem TextureOk.of_sameSize {s t : State} (hs : TextureOk s) (h : SameSize s t)
    (hv : t.status.texValid = true → s.status.texValid = true)
    (hl : t.status.busy = true → SizeLatched t → s.status.busy = true ∧ SizeLatched s) :
    TextureOk t where
  valid ht := h.sized (hs.valid (hv ht))
  latched hb hp :=
    have ⟨hb', hp'⟩ := hl hb hp
    h.sized (hs.latched hb' hp')

/-- The same, where the results and the sequencer stay, and BUSY and TEX_VALID. -/
theorem TextureOk.of_frame {s t : State} (hs : TextureOk s) (hr : t.res = s.res)
    (hq : t.seq = s.seq) (hb : t.status.busy = s.status.busy)
    (hv : t.status.texValid = s.status.texValid) : TextureOk t :=
  hs.of_sameSize ⟨by rw [hr], by rw [hr]⟩ (by rw [hv]; exact id)
    (fun hb' hl => ⟨hb ▸ hb', by rwa [SizeLatched, hq] at hl⟩)

/-! The order of the texture phases. -/

/-- A phase that reads the latched size without latching it stands right after a texture phase. -/
abbrev TextureOrder (a b : Phase) : Prop :=
  b = .texBlur ∨ b = .texNorm → a ∈ texturePhases

/-- Every phase list has the texture phases in order, its first phase after IDLE
(40_sequencer.md R151). -/
theorem phaseList_textureOrder (c : Config) (i : Instr) :
    List.IsChain TextureOrder (.idle :: phaseList c i) := by
  cases hb : c.fsBorder <;> cases i <;> simp only [phaseList, borderPhases, hb] <;> decide

/-- A job never starts at a phase that relies on a size latched before it. -/
theorem phaseList_head_order (c : Config) (i : Instr) :
    (phaseList c i).headD .idle ≠ .texBlur ∧ (phaseList c i).headD .idle ≠ .texNorm := by
  cases i <;> exact ⟨nofun, nofun⟩

theorem phaseList_succ_order {c : Config} {i : Instr} {n : Nat} {a b : Phase}
    (ha : (phaseList c i)[n]? = some a) (hb : (phaseList c i)[n + 1]? = some b) :
    TextureOrder a b := by
  obtain ⟨hn, rfl⟩ := List.getElem?_eq_some_iff.mp hb
  obtain ⟨hm, rfl⟩ := List.getElem?_eq_some_iff.mp ha
  exact (phaseList_textureOrder c i).tail.getElem n hn

/-! One phase. -/

theorem reseed_sameSize (s : State) : SameSize s (reseed s) := by
  unfold reseed
  split <;> exact ⟨rfl, rfl⟩

theorem startTexFill_size (s : State) :
    (startTexFill s).res.twl = s.regs.texW ∧ (startTexFill s).res.thl = s.regs.texH := by
  unfold startTexFill
  exact reseed_sameSize _

/-- Only the start of TEX_FILL changes the latched size. -/
theorem startPhase_sameSize {ph : Phase} (h : ph ≠ .texFill) (s : State) :
    SameSize s (startPhase ph s) := by
  cases ph
  case texFill => exact absurd rfl h
  case random => exact reseed_sameSize s
  all_goals exact ⟨rfl, rfl⟩

/-- The start of TEX_FILL latches the size that check TEXDIM has passed. -/
theorem startPhase_texFill_sized {s : State} (h : textureFits s) :
    TextureSized (startPhase .texFill s) := by
  obtain ⟨hw, -, hh, -⟩ := h
  rw [TextureSized, startPhase, (startTexFill_size s).1, (startTexFill_size s).2]
  exact ⟨hw, hh⟩

/-- Starting a phase of a texture leaves a positive size, if there was one or TEXDIM passed. -/
theorem startPhase_sized {ph : Phase} {s : State} (hfill : ph = .texFill → textureFits s)
    (hs : ph ≠ .texFill → TextureSized s) : TextureSized (startPhase ph s) := by
  by_cases h : ph = .texFill
  · subst h
    exact startPhase_texFill_sized (hfill rfl)
  · exact (startPhase_sameSize h s).sized (hs h)

/-- No phase raises TEX_VALID at its start. -/
theorem startPhase_texValid {ph : Phase} {s : State}
    (h : (startPhase ph s).status.texValid = true) : s.status.texValid = true := by
  cases ph
  case texFill => simp [startPhase] at h
  all_goals simpa [startPhase] using h

/-- Only the end of TEX_NORM raises TEX_VALID. -/
theorem finishPhase_texValid {ph : Phase} (h : ph ≠ .texNorm) (s : State) :
    (finishPhase ph s).status = s.status := by
  cases ph
  case texNorm => exact absurd rfl h
  all_goals rfl

theorem runPhase_res (ph : Phase) (s : State) :
    (runPhase ph s).res = (startPhase ph s).res := by
  simp [runPhase]

theorem runPhase_texValid {ph : Phase} (hn : ph ≠ .texNorm) {s : State}
    (h : (runPhase ph s).status.texValid = true) : s.status.texValid = true := by
  rw [runPhase, finishPhase_texValid hn, runElements_status] at h
  exact startPhase_texValid h

/-! A whole job. -/

/-- Along a list with the texture phases in order, after a phase `a`: every TEX_NORM that raises
TEX_VALID comes after the TEX_FILL that latched a positive size. -/
theorem runPhases_sized (l : List Phase) {a : Phase} {s : State}
    (hl : List.IsChain TextureOrder (a :: l)) (hfit : .texFill ∈ l → textureFits s)
    (ha : a ∈ texturePhases → TextureSized s)
    (hv : s.status.texValid = true → TextureSized s)
    (h : (runPhases l s).status.texValid = true) : TextureSized (runPhases l s) := by
  induction l generalizing a s with
  | nil => exact hv h
  | cons b r ih =>
    obtain ⟨hab, hr⟩ := List.isChain_cons_cons.mp hl
    have hb : b ∈ texturePhases → TextureSized (runPhase b s) := fun hmem => by
      rw [TextureSized, runPhase_res]
      refine startPhase_sized (fun hfill => hfit (hfill ▸ List.mem_cons_self)) fun hne => ?_
      exact ha (hab (by simpa [texturePhases, hne] using hmem))
    refine ih hr (fun hmem => ?_) hb (fun hvalid => ?_) h
    · simpa [textureFits] using hfit (List.mem_cons_of_mem b hmem)
    · by_cases hmem : b ∈ texturePhases
      · exact hb hmem
      · simp only [texturePhases, List.mem_cons, List.not_mem_nil, or_false, not_or] at hmem
        obtain ⟨hfill, -, hnorm⟩ := hmem
        have hsize : TextureSized (startPhase b s) :=
          (startPhase_sameSize hfill s).sized (hv (runPhase_texValid hnorm hvalid))
        rwa [TextureSized, runPhase_res]

/-- A command that generates a texture is accepted only after check TEXDIM. -/
theorem textureFits_of_checksPass {i : Instr} {s : State} (hc : checksPass i s)
    (h : .texFill ∈ phaseList s.cfg i) : textureFits s := by
  cases i
  case blue | all => exact hc.2.1
  case genTex => exact hc.1
  case fs => cases hb : s.cfg.fsBorder <;> simp [phaseList, borderPhases, hb] at h
  all_goals simp [phaseList] at h

theorem accept_textureOk (i : Instr) {s : State} (hs : TextureOk s) : TextureOk (accept i s) :=
  hs.of_sameSize ⟨rfl, rfl⟩ id fun _ hl => by
    obtain ⟨hblur, hnorm⟩ := phaseList_head_order s.cfg i
    rcases hl with h | h | ⟨-, h⟩
    · exact absurd h hblur
    · exact absurd h hnorm
    · cases h

theorem exec_textureOk {i : Instr} {s t : State} (hs : TextureOk s) (h : exec i s = .next t) :
    TextureOk t := by
  rcases exec_cases h with ⟨-, rfl⟩ | ⟨-, -, rfl⟩ | ⟨-, -, c, rfl⟩ | ⟨-, -, -, -, rfl⟩ |
    ⟨-, -, hc, -, rfl⟩
  · exact hs.of_frame rfl rfl rfl rfl
  · exact hs
  · exact hs.of_frame rfl rfl rfl rfl
  · exact accept_textureOk i hs
  · exact ⟨runPhases_sized (s := accept i s) _ (phaseList_textureOrder s.cfg i)
      (textureFits_of_checksPass hc) (fun h => absurd h (by decide)) hs.valid, nofun⟩

/-! Every host access. -/

theorem issueWord_textureOk {w : Word} {s t : State} (hb : s.status.busy = false)
    (hs : TextureOk s) (h : issueWord w s = .next t) : TextureOk t := by
  rcases issueWord_cases hb h with ⟨e, -, rfl⟩ | ⟨i, -, hi⟩
  · exact hs.of_frame rfl rfl rfl rfl
  · exact exec_textureOk hs hi

theorem hostRead_textureOk (r : Reg) {s : State} (hs : TextureOk s) :
    TextureOk (hostRead r s) := by
  obtain ⟨a, hr, -⟩ := hostRead_eq r s
  rw [hr]
  exact hs.of_frame rfl rfl rfl rfl

theorem hostWrite_textureOk {r : Reg} {v : Word} {s t : State} (hs : TextureOk s)
    (h : hostWrite r v s = .next t) : TextureOk t := by
  rcases hostWrite_cases h with ⟨-, rfl⟩ | ⟨hb, -, hw⟩ | ⟨-, rfl⟩ | ⟨-, -, rfl⟩ | ⟨-, ht⟩ |
    ⟨-, -, rfl⟩
  · exact hs.of_frame rfl rfl rfl rfl
  · exact issueWord_textureOk hb hs hw
  · rw [writeStatus_eq]
    exact hs.of_frame rfl rfl rfl rfl
  · rcases portWrite_cases v s with hw | ⟨-, hw⟩ <;> rw [hw] <;>
      exact hs.of_frame rfl rfl rfl rfl
  · rw [ht]
    exact hs.of_frame rfl rfl rfl rfl
  · exact hs

theorem hostAccess_textureOk {a : BusAccess} {s t : State} (hs : TextureOk s)
    (h : hostAccess a s = .next t) : TextureOk t := by
  obtain ⟨r, ⟨-, rfl⟩ | ⟨v, -, hw⟩⟩ := hostAccess_cases h
  · exact hostRead_textureOk r hs
  · exact hostWrite_textureOk hs hw

/-! The engine and the step. -/

/-- A texture phase that has been entered has its size latched. -/
theorem sizeLatched_of_entered {s : State} (he : s.seq.entered = true)
    (h : s.seq.phase ∈ texturePhases) : SizeLatched s := by
  simp only [texturePhases, List.mem_cons, List.not_mem_nil, or_false] at h
  rcases h with h | h | h
  · exact .inr (.inr ⟨h, he⟩)
  · exact .inl h
  · exact .inr (.inl h)

theorem mem_texturePhases_of_sizeLatched {s : State} (h : SizeLatched s) :
    s.seq.phase ∈ texturePhases := by
  rcases h with h | h | ⟨h, -⟩ <;> simp [h, texturePhases]

theorem enterPhase_textureOk {s : State} (hb : s.status.busy = true)
    (hfit : phaseFits s s.seq.phase) (hs : TextureOk s) : TextureOk (enterPhase s) := by
  by_cases hmem : s.seq.phase ∈ texturePhases
  · have hsize : TextureSized (startPhase s.seq.phase s) := by
      refine startPhase_sized (fun hfill => by rwa [hfill] at hfit) fun hne => hs.latched hb ?_
      simpa [texturePhases, hne, SizeLatched] using hmem
    exact TextureSized.ok hsize
  · have hne : s.seq.phase ≠ .texFill := fun h => hmem (by rw [h]; decide)
    refine hs.of_sameSize (startPhase_sameSize hne s) startPhase_texValid fun _ hl => ?_
    have hlatched := mem_texturePhases_of_sizeLatched hl
    rw [(enterPhase_sameJob s).phase] at hlatched
    exact absurd hlatched hmem

theorem processElement_textureOk {s : State} (hs : TextureOk s) :
    TextureOk (processElement s) := by
  obtain ⟨lo, hi, hseq, -⟩ :=
    stepElement_seq s.seq.phase s.seq.sy.toNat s.seq.sx.toNat s
  refine hs.of_sameSize (by simp [SameSize, processElement]) (by simp [processElement]) ?_
  simp only [processElement, SizeLatched, stepElement_status, hseq]
  exact fun hb hl => ⟨hb, hl⟩

/-- Leaving a texture phase, its latched size is positive already; after any other phase comes
none that relies on a size. -/
theorem leavePhase_textureOk {s : State} (hb : s.status.busy = true)
    (he : s.seq.entered = true) (hj : JobOk s) (hs : TextureOk s) : TextureOk (leavePhase s) := by
  obtain ⟨i, hop, hpos⟩ := hj.2 hb
  have hphases := currentPhases_of_op hop
  by_cases hmem : s.seq.phase ∈ texturePhases
  · have hsize : TextureSized (finishPhase s.seq.phase s) := by
      rw [TextureSized, finishPhase_res]
      exact hs.latched hb (sizeLatched_of_entered he hmem)
    rcases leavePhase_cases s with ⟨ph, -, h⟩ | ⟨-, h⟩ <;> rw [h] <;> exact TextureSized.ok hsize
  · have hne : s.seq.phase ≠ .texNorm := fun h => hmem (by rw [h]; decide)
    have hst := finishPhase_texValid hne s
    rcases leavePhase_cases s with ⟨ph, hph, h⟩ | ⟨-, h⟩ <;> rw [h]
    · rw [hphases] at hph
      refine hs.of_sameSize (by simp [SameSize]) (by simp [hst]) fun _ hl => absurd ?_ hmem
      rcases hl with hl | hl | ⟨-, hl⟩
      · exact phaseList_succ_order hpos hph (.inl hl)
      · exact phaseList_succ_order hpos hph (.inr hl)
      · cases hl
    · exact hs.of_sameSize (by simp [SameSize]) (by simp [hst, completeStatus]) nofun

theorem engineStep_textureOk {s : State} (hj : JobOk s) (hf : JobFits s) (hs : TextureOk s) :
    TextureOk (engineStep s) := by
  rcases engineStep_cases s with ⟨-, h⟩ | ⟨hb, -, h⟩ | ⟨-, -, -, h⟩ | ⟨hb, he, -, h⟩ <;> rw [h]
  · exact hs
  · obtain ⟨i, hop, hpos⟩ := hj.2 hb
    have hmem : s.seq.phase ∈ currentPhases s := by
      rw [currentPhases_of_op hop]
      exact List.mem_of_getElem? hpos
    exact enterPhase_textureOk hb (hf hb _ hmem) hs
  · exact processElement_textureOk hs
  · exact leavePhase_textureOk hb he hj hs

theorem step_textureOk {s t : State} (hj : JobOk s) (hf : JobFits s) (hs : TextureOk s)
    (h : step s = .next t) : TextureOk t := by
  rcases step_cases h with ⟨-, rfl⟩ | ⟨i, rest, -, ⟨-, rfl⟩ | ⟨-, rfl⟩ | ⟨a, overlap, -, ha⟩⟩
  · exact engineStep_textureOk hj hf hs
  · exact engineStep_textureOk (s := { s with env := { s.env with inputs := rest } }) hj hf
      (hs.of_frame rfl rfl rfl rfl)
  · exact ⟨nofun, nofun⟩
  · exact hostAccess_textureOk (hs.of_frame (by simp) (by simp) (by simp) (by simp)) ha

/-- Settles O58: of the safe state the engine needs the phase list of the running job and that its
phases fit; a job run in one step goes down the same list (`runPhases_sized`). -/
theorem validTextureHasASize : Obligations.ValidTextureHasASize := by
  intro s t hsafe hvalid hlatched hfill h
  obtain ⟨-, hjob, hfits, -⟩ := hsafe
  have hs : TextureOk s := ⟨hvalid, fun hb hl => by
    rcases hl with hl | hl | ⟨hl, he⟩
    · exact hlatched hb (.inl hl)
    · exact hlatched hb (.inr hl)
    · exact hfill hb hl he⟩
  have ht : TextureOk t := step_textureOk hjob hfits hs h
  exact ⟨ht.valid, fun hb hl => ht.latched hb (hl.imp_right .inl),
    fun hb hl he => ht.latched hb (.inr (.inr ⟨hl, he⟩))⟩

end Sys2Proof.Machine
end

section
/-! The canonical form of memory along a step: every operation that writes a buffer writes it through
`cellSet`, which keeps the indices rising (10_state.md R55, 20_memory.md R84; log 8). -/

namespace Sys2Proof.Machine

theorem enterPhase_wf {s : State} (h : Memory.wf s.bufs) : Memory.wf (enterPhase s).bufs :=
  (startPhase_bufs s s.seq.phase).symm ▸ h

theorem processElement_wf {s : State} (h : Memory.wf s.bufs) :
    Memory.wf (processElement s).bufs :=
  stepElement_wf s.seq.phase _ _ s h

@[simp] theorem leavePhase_bufs (s : State) : (leavePhase s).bufs = s.bufs := by
  rcases leavePhase_cases s with ⟨ph, -, h⟩ | ⟨-, h⟩ <;> simp [h]

theorem engineStep_wf {s : State} (hs : Memory.wf s.bufs) : Memory.wf (engineStep s).bufs := by
  rcases engineStep_cases s with ⟨-, h⟩ | ⟨-, -, h⟩ | ⟨-, -, -, h⟩ | ⟨-, -, -, h⟩ <;> rw [h]
  · exact hs
  · exact enterPhase_wf hs
  · exact processElement_wf hs
  · rwa [leavePhase_bufs]

theorem exec_wf {i : Instr} {s t : State} (hs : Memory.wf s.bufs) (h : exec i s = .next t) :
    Memory.wf t.bufs := by
  rcases exec_cases h with ⟨-, rfl⟩ | ⟨-, -, rfl⟩ | ⟨-, -, c, rfl⟩ | ⟨-, -, -, -, rfl⟩ |
    ⟨-, -, -, -, rfl⟩
  · exact hs
  · exact hs
  · exact hs
  · exact hs
  · exact runPhases_wf _ (s := accept i s) hs

theorem issueWord_wf {w : Word} {s t : State} (hb : s.status.busy = false)
    (hs : Memory.wf s.bufs) (h : issueWord w s = .next t) : Memory.wf t.bufs := by
  rcases issueWord_cases hb h with ⟨e, -, rfl⟩ | ⟨i, -, hi⟩
  · exact hs
  · exact exec_wf hs hi

@[simp] theorem writeStatus_bufs (v : Word) (s : State) : (writeStatus v s).bufs = s.bufs := by
  rw [writeStatus_eq]

theorem portWrite_wf (v : Word) {s : State} (hs : Memory.wf s.bufs) :
    Memory.wf (portWrite v s).bufs := by
  rcases portWrite_cases v s with h | ⟨-, h⟩ <;> rw [h]
  · exact hs
  · exact writeIn_wf hs _ _

@[simp] theorem hostRead_bufs (r : Reg) (s : State) : (hostRead r s).bufs = s.bufs := by
  obtain ⟨a, h, -⟩ := hostRead_eq r s
  rw [h]

theorem hostWrite_wf {r : Reg} {v : Word} {s t : State} (hs : Memory.wf s.bufs)
    (h : hostWrite r v s = .next t) : Memory.wf t.bufs := by
  rcases hostWrite_cases h with ⟨-, rfl⟩ | ⟨hb, -, hw⟩ | ⟨-, rfl⟩ | ⟨-, -, rfl⟩ | ⟨-, ht⟩ |
    ⟨-, -, rfl⟩
  · exact hs
  · exact issueWord_wf hb hs hw
  · rwa [writeStatus_bufs]
  · exact portWrite_wf v hs
  · rw [ht]; exact hs
  · exact hs

theorem hostAccess_wf {a : BusAccess} {s t : State} (hs : Memory.wf s.bufs)
    (h : hostAccess a s = .next t) : Memory.wf t.bufs := by
  obtain ⟨r, ⟨-, rfl⟩ | ⟨v, -, hw⟩⟩ := hostAccess_cases h
  · rwa [hostRead_bufs]
  · exact hostWrite_wf hs hw

/-- Settles O55: the engine, the host and reset each keep the canonical form. -/
theorem stepKeepsMemoryCanonical : Obligations.StepKeepsMemoryCanonical := by
  intro s t hs h
  rcases step_cases h with ⟨-, rfl⟩ | ⟨i, rest, -, ⟨-, rfl⟩ | ⟨-, rfl⟩ | ⟨a, overlap, -, ha⟩⟩
  · exact engineStep_wf hs
  · exact engineStep_wf (s := { s with env := { s.env with inputs := rest } }) hs
  · exact reset_memory_wf
  · exact hostAccess_wf (by simpa using hs) ha

end Sys2Proof.Machine
end

section
/-! Every access of the engine lies inside its buffer, and every running job fits: the indices that an
element of a phase writes, the scan position, and the phases that a command's checks let through
(20_memory.md R84, 40_sequencer.md R152, 60_exceptions.md R302, R304). -/

namespace Sys2Proof.Machine

/-! What the size of a phase and its elements depend on. -/

theorem phaseFits_congr {s t : State} (hc : t.cfg = s.cfg) (hr : t.regs = s.regs) (ph : Phase) :
    phaseFits t ph = phaseFits s ph := by
  cases s; cases t; cases hc; cases hr; cases ph <;> rfl

theorem phaseElements_congr {s t : State} (hr : t.regs = s.regs) (hres : t.res = s.res)
    (ph : Phase) : phaseElements ph t = phaseElements ph s := by
  cases s; cases t; cases hr; cases hres; cases ph <;> rfl

theorem scanEnded_congr {s t : State} (hr : t.regs = s.regs) (hres : t.res = s.res)
    (ph : Phase) (y : Nat) : scanEnded ph t y = scanEnded ph s y := by
  cases s; cases t; cases hr; cases hres; cases ph <;> rfl

/-! Writes below a buffer's capacity. -/

/-- The entries of a written buffer: the one written and old ones. -/
theorem mem_cellSet {w : Nat} {c : Cells w} {i : Nat} {x : BitVec w} {e : Nat × BitVec w}
    (h : e ∈ cellSet c i x) : e = (i, x) ∨ e ∈ c := by
  induction c with
  | nil => simpa [cellSet] using h
  | cons f rest ih =>
    obtain ⟨j, v⟩ := f
    simp only [cellSet] at h
    split at h
    · exact (List.mem_cons.mp h).imp_right (List.mem_cons_of_mem _)
    · split at h
      · exact List.mem_cons.mp h
      · rcases List.mem_cons.mp h with rfl | h
        · exact .inr List.mem_cons_self
        · exact (ih h).imp_right (List.mem_cons_of_mem _)

/-- What holds of the entry written and of every entry listed holds of every entry after the write. -/
theorem forall_mem_cellSet {w : Nat} {c : Cells w} {P : Nat × BitVec w → Prop} {i : Nat}
    {x : BitVec w} (h : ∀ e ∈ c, P e) (hx : P (i, x)) : ∀ e ∈ cellSet c i x, P e := by
  intro e he
  rcases mem_cellSet he with rfl | he
  · exact hx
  · exact h e he

section Writes

variable {s : State} {i : Nat}

theorem writeIn_buffersOk (h : BuffersOk s) (hi : i < capacity s.cfg .inp) (v : Byte) :
    BuffersOk (writeIn s i v) := by
  obtain ⟨hin, hrest⟩ := h
  exact ⟨forall_mem_cellSet hin hi, hrest⟩

theorem writeGray_buffersOk (h : BuffersOk s) (hi : i < capacity s.cfg .gray) (v : Byte) :
    BuffersOk (writeGray s i v) := by
  obtain ⟨hin, hgray, hrest⟩ := h
  exact ⟨hin, forall_mem_cellSet hgray hi, hrest⟩

theorem writeOut0_buffersOk (h : BuffersOk s) (hi : i < capacity s.cfg .out0) (v : Byte) :
    BuffersOk (writeOut0 s i v) := by
  obtain ⟨hin, hgray, hout0, hrest⟩ := h
  exact ⟨hin, hgray, forall_mem_cellSet hout0 hi, hrest⟩

theorem writeOut1_buffersOk (h : BuffersOk s) (hi : i < capacity s.cfg .out1) (v : Byte) :
    BuffersOk (writeOut1 s i v) := by
  obtain ⟨hin, hgray, hout0, hout1, hrest⟩ := h
  exact ⟨hin, hgray, hout0, forall_mem_cellSet hout1 hi, hrest⟩

theorem writeOut2_buffersOk (h : BuffersOk s) (hi : i < capacity s.cfg .out2) (v : Byte) :
    BuffersOk (writeOut2 s i v) := by
  obtain ⟨hin, hgray, hout0, hout1, hout2, hrest⟩ := h
  exact ⟨hin, hgray, hout0, hout1, forall_mem_cellSet hout2 hi, hrest⟩

theorem writeOut3_buffersOk (h : BuffersOk s) (hi : i < capacity s.cfg .out3) (v : Byte) :
    BuffersOk (writeOut3 s i v) := by
  obtain ⟨hin, hgray, hout0, hout1, hout2, hout3, hrest⟩ := h
  exact ⟨hin, hgray, hout0, hout1, hout2, forall_mem_cellSet hout3 hi, hrest⟩

theorem writeAcc_buffersOk (h : BuffersOk s) (hi : i < capacity s.cfg .acc) (v : Int) :
    BuffersOk (writeAcc s i v) := by
  obtain ⟨hin, hgray, hout0, hout1, hout2, hout3, hacc, hrest⟩ := h
  exact ⟨hin, hgray, hout0, hout1, hout2, hout3, forall_mem_cellSet hacc hi, hrest⟩

theorem writeTex_buffersOk (h : BuffersOk s) (hi : i < capacity s.cfg .tex) (v : BitVec 64) :
    BuffersOk (writeTex s i v) := by
  obtain ⟨hin, hgray, hout0, hout1, hout2, hout3, hacc, htex, hrest⟩ := h
  exact ⟨hin, hgray, hout0, hout1, hout2, hout3, hacc, forall_mem_cellSet htex hi, hrest⟩

/-- TEXRAW is the one buffer whose elements have a range of their own (10_state.md R60). -/
theorem writeTexRaw_buffersOk (h : BuffersOk s) (hi : i < capacity s.cfg .texRaw) (k : Nat) :
    BuffersOk (writeTexRaw s i k) := by
  obtain ⟨hin, hgray, hout0, hout1, hout2, hout3, hacc, htex, hraw, hbits, hsize⟩ := h
  exact ⟨hin, hgray, hout0, hout1, hout2, hout3, hacc, htex, forall_mem_cellSet hraw hi,
    forall_mem_cellSet hbits (texRawElement_lt s.cfg k), hsize⟩

end Writes

/-- The buffers stay in range where they are untouched and the latched size still fits. -/
theorem BuffersOk.of_sameBufs {s t : State} (h : BuffersOk s) (hc : t.cfg = s.cfg)
    (hb : t.bufs = s.bufs) (hw : t.res.twl.toNat ≤ s.cfg.texMaxW)
    (hh : t.res.thl.toNat ≤ s.cfg.texMaxH) : BuffersOk t := by
  obtain ⟨hin, hgray, hout0, hout1, hout2, hout3, hacc, htex, hraw, hbits, -, -⟩ := h
  rw [BuffersOk, hc, hb]
  exact ⟨hin, hgray, hout0, hout1, hout2, hout3, hacc, htex, hraw, hbits, hw, hh⟩

theorem BuffersOk.texSize {s : State} (h : BuffersOk s) :
    texW s ≤ s.cfg.texMaxW ∧ texH s ≤ s.cfg.texMaxH := by
  obtain ⟨-, -, -, -, -, -, -, -, -, -, hw, hh⟩ := h
  exact ⟨hw, hh⟩

/-! The elements of a phase lie on its grid. -/

theorem mul_add_lt_mul {w h y x : Nat} (hy : y < h) (hx : x < w) : y * w + x < w * h := by
  calc y * w + x < y * w + w := by omega
    _ = w * (y + 1) := by ring
    _ ≤ w * h := Nat.mul_le_mul_left w hy

theorem pixelIndex_lt {s : State} (hfit : imageFits s) {y x : Nat} (hy : y < imageH s)
    (hx : x < imageW s) : pixelIndex s y x < s.cfg.maxW * s.cfg.maxH :=
  (mul_add_lt_mul hy hx).trans_le (Nat.mul_le_mul hfit.1 hfit.2)

theorem cellIndex_lt {s : State} (h : BuffersOk s) {y x : Nat} (hy : y < texH s)
    (hx : x < texW s) : cellIndex s y x < s.cfg.texMaxW * s.cfg.texMaxH :=
  (mul_add_lt_mul hy hx).trans_le (Nat.mul_le_mul h.texSize.1 h.texSize.2)

theorem mem_borderList (w h y x : Nat) :
    (y, x) ∈ borderList w h ↔ (y < h ∧ x < w) ∧ (y + 1 = h ∨ x = 0 ∨ x + 1 = w) := by
  simp [borderList, mem_rasterList, isBorder, or_assoc]

theorem mem_phaseElements_lt {ph : Phase} {s : State} {y x : Nat}
    (h : (y, x) ∈ phaseElements ph s) : y < gridH ph s ∧ x < gridW ph s := by
  cases ph
  case fsScan =>
    obtain ⟨hy, hx, hx'⟩ := (mem_visitList _ _ y x).mp h
    simp only [gridH, gridW]
    omega
  case fsBorder => exact ((mem_borderList _ _ y x).mp h).1
  all_goals exact (mem_rasterList _ _ y x).mp h

/-! An element of a phase, a phase, and a whole job write inside the buffers. -/

theorem noteExtremes_buffersOk {s : State} (t : Nat) (b : BitVec 64) (h : BuffersOk s) :
    BuffersOk (noteExtremes t b s) := by
  simpa [BuffersOk] using h

/-- A visited pixel has a pixel to its right and three below it: FS_SCAN sends its shares inside the
image (44_error_diffusion.md R201). -/
theorem stepFsScan_buffersOk {s : State} {y x : Nat} (h : BuffersOk s) (hfit : imageFits s)
    (hmem : (y, x) ∈ visitList (imageW s) (imageH s)) : BuffersOk (stepFsScan y x s) := by
  obtain ⟨hy, hx, hx'⟩ := (mem_visitList _ _ y x).mp hmem
  have hpix : pixelIndex s y x < s.cfg.maxW * s.cfg.maxH :=
    pixelIndex_lt hfit (by omega) (by omega)
  have hbelow : pixelIndex s (y + 1) (x + 1) < s.cfg.maxW * s.cfg.maxH :=
    pixelIndex_lt hfit (by omega) (by omega)
  have hrow : pixelIndex s (y + 1) (x + 1) = pixelIndex s y x + imageW s + 1 := by
    simp only [pixelIndex]
    ring
  refine writeAcc_buffersOk (writeAcc_buffersOk (writeAcc_buffersOk (writeAcc_buffersOk
    (writeOut2_buffersOk (writeAcc_buffersOk h hpix _) hpix _) ?_ _) ?_ _) ?_ _) ?_ _ <;>
  · simp only [writeAcc_cfg, writeOut2_cfg, capacity]
    omega

theorem stepElement_buffersOk {ph : Phase} {s : State} {y x : Nat} (h : BuffersOk s)
    (hfit : phaseFits s ph) (hmem : (y, x) ∈ phaseElements ph s) :
    BuffersOk (stepElement ph y x s) := by
  obtain ⟨hy, hx⟩ := mem_phaseElements_lt hmem
  cases ph
  case idle => exact h
  case grayconv => exact writeGray_buffersOk h (pixelIndex_lt hfit hy hx) _
  case bayer => exact writeOut0_buffersOk h (pixelIndex_lt hfit hy hx) _
  case random => exact writeOut1_buffersOk h (pixelIndex_lt hfit hy hx) _
  case fsInit =>
    exact writeOut2_buffersOk (writeAcc_buffersOk h (pixelIndex_lt hfit hy hx) _)
      (pixelIndex_lt hfit hy hx) _
  case fsScan => exact stepFsScan_buffersOk h hfit hmem
  case fsBorder => exact writeOut2_buffersOk h (pixelIndex_lt hfit hy hx) _
  case texFill => exact writeTexRaw_buffersOk h (cellIndex_lt h hy hx) _
  case texBlur =>
    exact noteExtremes_buffersOk _ _ (writeTex_buffersOk h (cellIndex_lt h hy hx) _)
  case texNorm => exact writeTex_buffersOk h (cellIndex_lt h hy hx) _
  case blueDither => exact writeOut3_buffersOk h (pixelIndex_lt hfit hy hx) _

theorem runElements_buffersOk {ph : Phase} {s : State} (l : List (Nat × Nat)) (h : BuffersOk s)
    (hfit : phaseFits s ph) (hl : ∀ e ∈ l, e ∈ phaseElements ph s) :
    BuffersOk (runElements ph l s) := by
  induction l generalizing s with
  | nil => exact h
  | cons e r ih =>
    refine ih (stepElement_buffersOk h hfit (hl e List.mem_cons_self)) ?_ fun e' he' => ?_
    · rwa [phaseFits_congr (stepElement_cfg ..) (stepElement_regs ..)]
    · rw [phaseElements_congr (stepElement_regs ..) (stepElement_res ..)]
      exact hl e' (List.mem_cons_of_mem _ he')

/-- TEX_FILL latches a size that check TEXDIM has passed; the other phases latch none. -/
theorem startPhase_buffersOk {ph : Phase} {s : State} (h : BuffersOk s) (hfit : phaseFits s ph) :
    BuffersOk (startPhase ph s) := by
  by_cases hfill : ph = .texFill
  · subst hfill
    obtain ⟨-, hw, -, hh⟩ := hfit
    obtain ⟨htwl, hthl⟩ := startTexFill_size s
    exact h.of_sameBufs (startPhase_cfg ..) (startPhase_bufs ..) (htwl ▸ hw) (hthl ▸ hh)
  · obtain ⟨htwl, hthl⟩ := startPhase_sameSize hfill s
    exact h.of_sameBufs (startPhase_cfg ..) (startPhase_bufs ..) (htwl ▸ h.texSize.1)
      (hthl ▸ h.texSize.2)

theorem finishPhase_buffersOk (ph : Phase) {s : State} (h : BuffersOk s) :
    BuffersOk (finishPhase ph s) := by
  simpa [BuffersOk] using h

theorem runPhase_buffersOk {ph : Phase} {s : State} (h : BuffersOk s) (hfit : phaseFits s ph) :
    BuffersOk (runPhase ph s) := by
  refine finishPhase_buffersOk ph
    (runElements_buffersOk _ (startPhase_buffersOk h hfit) ?_ fun _ he => he)
  rwa [phaseFits_congr (startPhase_cfg ..) (startPhase_regs ..)]

theorem runPhases_buffersOk (l : List Phase) {s : State} (h : BuffersOk s)
    (hfit : ∀ ph ∈ l, phaseFits s ph) : BuffersOk (runPhases l s) := by
  induction l generalizing s with
  | nil => exact h
  | cons ph r ih =>
    refine ih (runPhase_buffersOk h (hfit ph List.mem_cons_self)) fun ph' hmem => ?_
    rw [phaseFits_congr (runPhase_cfg ..) (runPhase_regs ..)]
    exact hfit ph' (List.mem_cons_of_mem _ hmem)

end Sys2Proof.Machine
end

section
/-! The scan position and the phases of a running job along a step (40_sequencer.md R152, R153,
60_exceptions.md R302): every step of a safe machine gives a safe machine. -/

namespace Sys2Proof.Machine

/-! The scan: it starts at the phase's first element and goes from element to element. -/

theorem grid_lt (ph : Phase) (s : State) : gridW ph s < 2 ^ 16 ∧ gridH ph s < 2 ^ 16 := by
  cases ph
  case idle => exact ⟨Nat.two_pow_pos 16, Nat.two_pow_pos 16⟩
  all_goals exact ⟨BitVec.isLt _, BitVec.isLt _⟩

/-- A phase but FS_SCAN and FS_BORDER steps over its whole grid. -/
theorem phaseElements_raster {ph : Phase} (hs : ph ≠ .fsScan) (hb : ph ≠ .fsBorder) (s : State) :
    phaseElements ph s = rasterList (gridW ph s) (gridH ph s) := by
  cases ph
  case fsScan => exact absurd rfl hs
  case fsBorder => exact absurd rfl hb
  all_goals rfl

theorem scanEnded_fsScan (s : State) (y : Nat) :
    scanEnded .fsScan s y = true ↔ imageW s < 3 ∨ imageH s ≤ y + 1 := by
  simp [scanEnded]

theorem scanEnded_of_ne_fsScan {ph : Phase} (h : ph ≠ .fsScan) (s : State) (y : Nat) :
    scanEnded ph s y = true ↔ gridW ph s = 0 ∨ gridH ph s ≤ y := by
  cases ph
  case fsScan => exact absurd rfl h
  all_goals simp [scanEnded]

theorem firstColumn_of_ne_fsScan {ph : Phase} (h : ph ≠ .fsScan) : (firstColumn ph).toNat = 0 := by
  cases ph
  case fsScan => exact absurd rfl h
  all_goals rfl

theorem nextElement_raster {ph : Phase} (hs : ph ≠ .fsScan) (hb : ph ≠ .fsBorder) (s : State)
    (y x : Nat) : nextElement ph s y x = rasterNext (gridW ph s) y x := by
  cases ph
  case fsScan => exact absurd rfl hs
  case fsBorder => exact absurd rfl hb
  all_goals rfl

/-- The scan has ended before row y, or (y, x) is one of the phase's elements. -/
abbrev ScanAt (ph : Phase) (s : State) (p : Nat × Nat) : Prop :=
  scanEnded ph s p.1 = true ∨ p ∈ phaseElements ph s

theorem scanAt_firstElement (ph : Phase) (s : State) :
    ScanAt ph s (0, (firstColumn ph).toNat) := by
  by_cases hs : ph = .fsScan
  · subst hs
    rw [ScanAt, scanEnded_fsScan]
    show _ ∨ (0, 1) ∈ visitList (imageW s) (imageH s)
    rw [mem_visitList]
    dsimp only
    omega
  · rw [ScanAt, scanEnded_of_ne_fsScan hs, firstColumn_of_ne_fsScan hs]
    by_cases hb : ph = .fsBorder
    · subst hb
      show _ ∨ (0, 0) ∈ borderList (imageW s) (imageH s)
      rw [mem_borderList]
      simp only [gridW, gridH, true_or, or_true, and_true]
      omega
    · rw [phaseElements_raster hs hb, mem_rasterList]
      omega

theorem scanAt_nextElement {ph : Phase} {s : State} {y x : Nat}
    (h : (y, x) ∈ phaseElements ph s) : ScanAt ph s (nextElement ph s y x) := by
  by_cases hs : ph = .fsScan
  · subst hs
    obtain ⟨hy, hx, hx'⟩ := (mem_visitList _ _ y x).mp h
    simp only [ScanAt, scanEnded_fsScan, nextElement, phaseElements]
    split <;> rw [mem_visitList] <;> omega
  · by_cases hb : ph = .fsBorder
    · subst hb
      obtain ⟨⟨hy, hx⟩, hedge⟩ := (mem_borderList _ _ y x).mp h
      simp only [ScanAt, scanEnded_of_ne_fsScan hs, nextElement, rasterNext, phaseElements, gridW,
        gridH]
      split
      · rw [mem_borderList]; omega
      · split <;> rw [mem_borderList] <;> omega
    · rw [phaseElements_raster hs hb, mem_rasterList] at h
      rw [ScanAt, scanEnded_of_ne_fsScan hs, phaseElements_raster hs hb, nextElement_raster hs hb,
        rasterNext]
      split <;> rw [mem_rasterList] <;> omega

/-- The scan position after an element fits the 16 bits of SY and SX. -/
theorem nextElement_lt {ph : Phase} {s : State} {y x : Nat}
    (h : (y, x) ∈ phaseElements ph s) :
    (nextElement ph s y x).1 < 2 ^ 16 ∧ (nextElement ph s y x).2 < 2 ^ 16 := by
  obtain ⟨hy, hx⟩ := mem_phaseElements_lt h
  obtain ⟨hw, hh⟩ := grid_lt ph s
  by_cases hs : ph = .fsScan
  · subst hs
    simp only [nextElement, gridW, gridH] at *
    split <;> omega
  · by_cases hb : ph = .fsBorder
    · subst hb
      simp only [nextElement, rasterNext, gridW, gridH] at *
      split
      · omega
      · split <;> omega
    · rw [nextElement_raster hs hb, rasterNext]
      split <;> omega

/-! The phases of a command whose checks pass. -/

theorem phaseFits_of {ph : Phase} {s : State} (htex : ph ∈ texturePhases → textureFits s)
    (himg : ph ∉ texturePhases → imageFits s) : phaseFits s ph := by
  cases ph
  case idle => trivial
  case texFill | texBlur | texNorm => exact htex (by decide)
  all_goals exact himg (by decide)

/-- A list that holds a texture phase holds TEX_FILL (40_sequencer.md R151). -/
theorem texFill_mem_phaseList {c : Config} {i : Instr} {ph : Phase} (h : ph ∈ phaseList c i)
    (ht : ph ∈ texturePhases) : .texFill ∈ phaseList c i := by
  revert ph
  cases hb : c.fsBorder <;> cases i <;> simp only [phaseList, borderPhases, hb] <;> decide

/-- The commands without check DIM step over no image. -/
theorem imageFits_of_checksPass {i : Instr} {s : State} (hc : checksPass i s) {ph : Phase}
    (h : ph ∈ phaseList s.cfg i) (ht : ph ∉ texturePhases) : imageFits s := by
  cases i
  case nop => cases h
  case genTex => exact absurd h ht
  case gray | bayer | random | fs => exact hc
  all_goals exact hc.1

theorem phaseFits_of_checksPass {i : Instr} {s : State} (hc : checksPass i s) {ph : Phase}
    (h : ph ∈ phaseList s.cfg i) : phaseFits s ph :=
  phaseFits_of (fun ht => textureFits_of_checksPass hc (texFill_mem_phaseList h ht))
    (imageFits_of_checksPass hc h)

/-! The running job. -/

theorem JobFits.of_frame {s t : State} (h : JobFits s) (hc : t.cfg = s.cfg)
    (hr : t.regs = s.regs) (hb : t.status.busy = s.status.busy)
    (ho : t.seq.curOp = s.seq.curOp) : JobFits t := by
  intro hbusy ph hmem
  rw [phaseFits_congr hc hr]
  refine h (hb ▸ hbusy) ph ?_
  rwa [currentPhases, hc, ho] at hmem

/-- What the engine does inside a job leaves the phases of the job fitting. -/
theorem SameJob.jobFits {s t : State} (h : SameJob s t) (hr : t.regs = s.regs)
    (hs : JobFits s) : JobFits t :=
  hs.of_frame h.cfg hr h.busy h.curOp

/-- A machine that has just been pointed at a phase stands at its first element. -/
theorem pointAtPhase_scanOk (ph : Phase) (pos : Nat) (s : State) :
    ScanOk (pointAtPhase ph pos s) :=
  fun _ => ⟨rfl, rfl⟩

/-- A running job fits its buffers, the scan stands on its phase, and the buffers are in range. -/
structure RunsInside (s : State) : Prop where
  fits : JobFits s
  scan : ScanOk s
  bufs : BuffersOk s

/-- With no job running only the buffers count. -/
theorem BuffersOk.runsInside {s : State} (h : BuffersOk s) (hb : s.status.busy = false) :
    RunsInside s :=
  ⟨fun hb' => by simp [hb] at hb', fun hb' => by simp [hb] at hb', h⟩

/-- RunsInside does not read the model's own fields, nor STATUS but for BUSY. -/
theorem RunsInside.of_frame {s t : State} (h : RunsInside s) (hc : t.cfg = s.cfg)
    (hr : t.regs = s.regs) (hb : t.status.busy = s.status.busy) (hres : t.res = s.res)
    (hbufs : t.bufs = s.bufs) (hq : t.seq = s.seq) : RunsInside t := by
  refine ⟨h.fits.of_frame hc hr hb (by rw [hq]), ?_, ?_⟩
  · rw [ScanOk, hb, hq, scanEnded_congr hr hres, phaseElements_congr hr hres]
    exact h.scan
  · rw [BuffersOk, hc, hbufs, hres]
    exact h.bufs

/-! Every host access. -/

theorem accept_runsInside {i : Instr} {s : State} (hc : checksPass i s) (h : BuffersOk s) :
    RunsInside (accept i s) where
  fits _ ph hmem := by
    rw [currentPhases_of_op (opOfCode_opCode i)] at hmem
    rw [phaseFits_congr (accept_cfg i s) (accept_regs i s)]
    exact phaseFits_of_checksPass hc hmem
  scan := pointAtPhase_scanOk _ _ _
  bufs := h

theorem exec_runsInside {i : Instr} {s t : State} (hs : RunsInside s) (h : exec i s = .next t) :
    RunsInside t := by
  rcases exec_cases h with ⟨-, rfl⟩ | ⟨-, -, rfl⟩ | ⟨-, -, c, rfl⟩ | ⟨-, -, hc, -, rfl⟩ |
    ⟨-, -, hc, -, rfl⟩
  · exact hs.of_frame rfl rfl rfl rfl rfl rfl
  · exact hs
  · exact hs.of_frame rfl rfl rfl rfl rfl rfl
  · exact accept_runsInside hc hs.bufs
  · have hjob : BuffersOk (runPhases (phaseList s.cfg i) (accept i s)) :=
      runPhases_buffersOk _ (accept_runsInside hc hs.bufs).bufs fun ph hmem => by
        rw [phaseFits_congr (accept_cfg i s) (accept_regs i s)]
        exact phaseFits_of_checksPass hc hmem
    exact BuffersOk.runsInside (s := complete _) hjob rfl

theorem issueWord_runsInside {w : Word} {s t : State} (hb : s.status.busy = false)
    (hs : RunsInside s) (h : issueWord w s = .next t) : RunsInside t := by
  rcases issueWord_cases hb h with ⟨e, -, rfl⟩ | ⟨i, -, hi⟩
  · exact hs.of_frame rfl rfl rfl rfl rfl rfl
  · exact exec_runsInside hs hi

theorem portWrite_buffersOk (v : Word) {s : State} (h : BuffersOk s) :
    BuffersOk (portWrite v s) := by
  rcases portWrite_cases v s with hw | ⟨ha, hw⟩ <;> rw [hw]
  · exact h
  · exact writeIn_buffersOk h ha _

theorem portWrite_status (v : Word) (s : State) : (portWrite v s).status = s.status := by
  rcases portWrite_cases v s with h | ⟨-, h⟩ <;> simp [h]

/-- A read moves BUF_ADDR at most, which no phase reads. -/
theorem hostRead_runsInside (r : Reg) {s : State} (hs : RunsInside s) :
    RunsInside (hostRead r s) := by
  obtain ⟨a, hr, -⟩ := hostRead_eq r s
  rw [hr]
  exact ⟨hs.fits, hs.scan, hs.bufs⟩

theorem hostWrite_runsInside {r : Reg} {v : Word} {s t : State} (hs : RunsInside s)
    (h : hostWrite r v s = .next t) : RunsInside t := by
  rcases hostWrite_cases h with ⟨-, rfl⟩ | ⟨hb, -, hw⟩ | ⟨-, rfl⟩ | ⟨hb, -, rfl⟩ | ⟨hb, ht⟩ |
    ⟨-, -, rfl⟩
  · exact hs.of_frame rfl rfl rfl rfl rfl rfl
  · exact issueWord_runsInside hb hs hw
  · rw [writeStatus_eq]
    exact hs.of_frame rfl rfl rfl rfl rfl rfl
  · exact (portWrite_buffersOk v hs.bufs).runsInside (by rwa [portWrite_status])
  · rw [ht]
    exact BuffersOk.runsInside (s := { s with regs := t.regs }) hs.bufs hb
  · exact hs

theorem hostAccess_runsInside {a : BusAccess} {s t : State} (hs : RunsInside s)
    (h : hostAccess a s = .next t) : RunsInside t := by
  obtain ⟨r, ⟨-, rfl⟩ | ⟨v, -, hw⟩⟩ := hostAccess_cases h
  · exact hostRead_runsInside r hs
  · exact hostWrite_runsInside hs hw

/-! The engine and the step. -/

/-- A reseed moves no scan and is no host write. -/
theorem reseed_scan_writes (s : State) :
    (reseed s).seq.sy = s.seq.sy ∧ (reseed s).seq.sx = s.seq.sx ∧
      (reseed s).env.writes = s.env.writes := by
  unfold reseed
  split <;> exact ⟨rfl, rfl, rfl⟩

/-- The start of a phase moves no scan and is no host write. -/
theorem startPhase_scan_writes (ph : Phase) (s : State) :
    (startPhase ph s).seq.sy = s.seq.sy ∧ (startPhase ph s).seq.sx = s.seq.sx ∧
      (startPhase ph s).env.writes = s.env.writes := by
  cases ph
  case random => exact reseed_scan_writes s
  case texFill => exact reseed_scan_writes _
  all_goals exact ⟨rfl, rfl, rfl⟩

theorem enterPhase_runsInside {s : State} (hb : s.status.busy = true)
    (he : s.seq.entered = false) (hfit : phaseFits s s.seq.phase) (hs : RunsInside s) :
    RunsInside (enterPhase s) where
  fits := (enterPhase_sameJob s).jobFits (enterPhase_regs s) hs.fits
  scan _ := by
    have hstart := hs.scan hb
    simp only [he, Bool.false_eq_true, if_false] at hstart
    obtain ⟨hsy, hsx, -⟩ := startPhase_scan_writes s.seq.phase s
    have hsy : (enterPhase s).seq.sy = 0 := hsy.trans hstart.1
    have hsx : (enterPhase s).seq.sx = firstColumn s.seq.phase := hsx.trans hstart.2
    have hentered : (enterPhase s).seq.entered = true := rfl
    rw [if_pos hentered, (enterPhase_sameJob s).phase, hsy, hsx]
    exact scanAt_firstElement s.seq.phase (enterPhase s)
  bufs := startPhase_buffersOk hs.bufs hfit

theorem processElement_runsInside {s : State} (hb : s.status.busy = true)
    (he : s.seq.entered = true) (hscan : scanEnded s.seq.phase s s.seq.sy.toNat = false)
    (hfit : phaseFits s s.seq.phase) (hs : RunsInside s) : RunsInside (processElement s) := by
  have hmem : (s.seq.sy.toNat, s.seq.sx.toNat) ∈ phaseElements s.seq.phase s := by
    simpa [he, hscan] using hs.scan hb
  have hjob := processElement_sameJob s
  obtain ⟨lo, hi, hseq, -⟩ := stepElement_seq s.seq.phase s.seq.sy.toNat s.seq.sx.toNat s
  have hentered : (processElement s).seq.entered = true := by
    simp only [processElement, hseq, he]
  obtain ⟨hn1, hn2⟩ := nextElement_lt hmem
  refine ⟨hjob.jobFits (processElement_regs s) hs.fits, fun _ => ?_,
    stepElement_buffersOk hs.bufs hfit hmem⟩
  rw [if_pos hentered, hjob.phase,
    scanEnded_congr (s := s) (processElement_regs s) (stepElement_res ..),
    phaseElements_congr (s := s) (processElement_regs s) (stepElement_res ..)]
  simp only [processElement, BitVec.toNat_ofNat, Nat.mod_eq_of_lt hn1, Nat.mod_eq_of_lt hn2]
  exact scanAt_nextElement hmem

theorem leavePhase_runsInside {s : State} (hs : RunsInside s) : RunsInside (leavePhase s) := by
  have hbufs := finishPhase_buffersOk s.seq.phase hs.bufs
  rcases leavePhase_cases s with ⟨ph, -, h⟩ | ⟨-, h⟩ <;> rw [h]
  · have hfits : JobFits (finishPhase s.seq.phase s) :=
      (finishPhase_sameJob s.seq.phase s).jobFits (finishPhase_regs ..) hs.fits
    exact ⟨hfits, pointAtPhase_scanOk _ _ _, hbufs⟩
  · exact BuffersOk.runsInside (s := complete _) hbufs rfl

/-- The current phase of a running job fits, being one of the job's phases. -/
theorem phaseFits_current {s : State} (hb : s.status.busy = true) (hj : JobOk s)
    (hf : JobFits s) : phaseFits s s.seq.phase := by
  obtain ⟨i, hop, hpos⟩ := hj.2 hb
  refine hf hb _ ?_
  rw [currentPhases_of_op hop]
  exact List.mem_of_getElem? hpos

theorem engineStep_runsInside {s : State} (hj : JobOk s) (hs : RunsInside s) :
    RunsInside (engineStep s) := by
  rcases engineStep_cases s with ⟨-, h⟩ | ⟨hb, he, h⟩ | ⟨hb, he, hscan, h⟩ | ⟨-, -, -, h⟩ <;> rw [h]
  · exact hs
  · exact enterPhase_runsInside hb he (phaseFits_current hb hj hs.fits) hs
  · exact processElement_runsInside hb he hscan (phaseFits_current hb hj hs.fits) hs
  · exact leavePhase_runsInside hs

theorem resetBlock_runsInside (s : State) : RunsInside (resetBlock s) :=
  have ⟨_, _, hfits, hscan, hbufs, _⟩ := resetBlock_safe s
  ⟨hfits, hscan, hbufs⟩

theorem step_runsInside {s t : State} (hj : JobOk s) (hs : RunsInside s) (h : step s = .next t) :
    RunsInside t := by
  rcases step_cases h with ⟨-, rfl⟩ | ⟨i, rest, -, ⟨-, rfl⟩ | ⟨-, rfl⟩ | ⟨a, overlap, -, ha⟩⟩
  · exact engineStep_runsInside hj hs
  · exact engineStep_runsInside (s := { s with env := { s.env with inputs := rest } }) hj
      (hs.of_frame rfl rfl rfl rfl rfl rfl)
  · exact resetBlock_runsInside _
  · exact hostAccess_runsInside
      (hs.of_frame (by simp) (by simp) (by simp) (by simp) (by simp) (by simp)) ha

/-- Settles O56: the parts of a safe state that need each other are STATUS with the sequencer
(`step_consistent`) and the job with its buffers (`step_runsInside`); the canonical form needs none of
them. -/
theorem stepKeepsEveryAccessInRange : Obligations.StepKeepsEveryAccessInRange := by
  intro s t ⟨hstatus, hjob, hfits, hscan, hbufs, hwf⟩ h
  obtain ⟨hstatus', hjob'⟩ := step_consistent ⟨hstatus, hjob⟩ h
  obtain ⟨hfits', hscan', hbufs'⟩ := step_runsInside hjob ⟨hfits, hscan, hbufs⟩ h
  exact ⟨hstatus', hjob', hfits', hscan', hbufs', stepKeepsMemoryCanonical s t hwf h⟩

end Sys2Proof.Machine
end

section
/-! Who writes what: the engine neither IN nor a configuration register, the host no other buffer and no
result (20_memory.md R92). -/

namespace Sys2Proof.Machine

theorem exec_regs_inp {i : Instr} {s t : State} (h : exec i s = .next t) :
    t.regs = s.regs ∧ t.bufs.inp = s.bufs.inp := by
  rcases exec_cases h with ⟨-, rfl⟩ | ⟨-, -, rfl⟩ | ⟨-, -, c, rfl⟩ | ⟨-, -, -, -, rfl⟩ |
    ⟨-, -, -, -, rfl⟩ <;> simp

theorem engineStep_inp (s : State) : (engineStep s).bufs.inp = s.bufs.inp := by
  rcases engineStep_cases s with ⟨-, h⟩ | ⟨-, -, h⟩ | ⟨-, -, -, h⟩ | ⟨-, -, -, h⟩ <;> rw [h]
  · exact congrArg Buffers.inp (startPhase_bufs s s.seq.phase)
  · exact stepElement_inp s.seq.phase _ _ s
  · rw [leavePhase_bufs]

/-- What a host write may change when it is not of CMD: the configuration, IN, and the STATUS bits
DONE, ERR, ERRCODE and WRBUSY. -/
structure HostWriteFrame (s t : State) : Prop where
  bufs : t.bufs = { s.bufs with inp := t.bufs.inp }
  res : t.res = s.res
  seq : t.seq = s.seq
  busy : t.status.busy = s.status.busy
  texValid : t.status.texValid = s.status.texValid
  lastOp : t.status.lastOp = s.status.lastOp

theorem portWrite_frame (v : Word) (s : State) : HostWriteFrame s (portWrite v s) := by
  rcases portWrite_cases v s with h | ⟨-, h⟩ <;> rw [h] <;> exact ⟨rfl, rfl, rfl, rfl, rfl, rfl⟩

theorem hostWrite_frame {r : Reg} {v : Word} {s t : State} (hr : r ≠ .cmd)
    (h : hostWrite r v s = .next t) : HostWriteFrame s t := by
  rcases hostWrite_cases h with ⟨-, rfl⟩ | ⟨-, hcmd, -⟩ | ⟨-, rfl⟩ | ⟨-, -, rfl⟩ | ⟨-, ht⟩ |
    ⟨-, -, rfl⟩
  · exact ⟨rfl, rfl, rfl, rfl, rfl, rfl⟩
  · exact absurd hcmd hr
  · rw [writeStatus_eq]
    exact ⟨rfl, rfl, rfl, rfl, rfl, rfl⟩
  · exact portWrite_frame v s
  · rw [ht]
    exact ⟨rfl, rfl, rfl, rfl, rfl, rfl⟩
  · exact ⟨rfl, rfl, rfl, rfl, rfl, rfl⟩

/-- Settles O45, one operation after the other. -/
theorem writersAreSeparate : Obligations.WritersAreSeparate := by
  refine ⟨fun _ _ _ h => exec_regs_inp h,
    fun s => ⟨engineStep_regs s, engineStep_inp s⟩, fun r s => ?_, fun r v s t hr h => ?_⟩
  · obtain ⟨a, h, -⟩ := hostRead_eq r s
    rw [h]
    exact ⟨rfl, rfl, rfl⟩
  · obtain ⟨hbufs, hres, hseq, hbusy, hvalid, hlast⟩ := hostWrite_frame hr h
    exact ⟨hbufs, hres, hseq, hbusy, hvalid, hlast⟩

end Sys2Proof.Machine
end

section
/-! A step whose next input is a host access (20_memory.md R80, R81, R93). -/

namespace Sys2Proof.Machine

theorem step_host {s : State} {rest : List Input} {a : BusAccess} {overlap : Bool}
    (h : s.env.inputs = .host a overlap :: rest) :
    step s =
      hostAccess a (beginAccess a.op overlap { s with env := { s.env with inputs := rest } }) := by
  simp only [step, stepOnce, h, takeInput]

/-- Settles O6: the map is a finite table; the access is `hostAccess_word`. -/
theorem stepPerformsRegisterAccess : Obligations.StepPerformsRegisterAccess := by
  refine ⟨by decide, fun offset hlo _ => regAt_reserved hlo, ?_⟩
  intro s rest op offset overlap hbase hoff hlt hin
  have hacc := hostAccess_word (op := op)
    (s := beginAccess op overlap { s with env := { s.env with inputs := rest } })
    (by simpa using hbase) hoff hlt
  rw [beginAccess_cfg] at hacc
  have hstep := (step_host hin).trans hacc
  refine ⟨?_, ?_⟩
  · rintro rfl
    exact hstep
  · rintro v rfl
    exact hstep

/-- The access lies in the block's 4 KiB window (20_memory.md R80). -/
abbrev InWindow (c : Config) (a : BusAccess) : Prop :=
  c.base ≤ a.addr ∧ a.addr < c.base + 4096

theorem hostAccess_outside {a : BusAccess} {s : State} (h : ¬InWindow s.cfg a) :
    hostAccess a s = .fault .outsideWindow := by
  rw [hostAccess, if_pos (by omega)]

theorem hostAccess_inside {a : BusAccess} {s : State} (h : InWindow s.cfg a) :
    (a.size = .byte → hostAccess a s = .refused .narrowAccess) ∧
    (a.size = .half → hostAccess a s = .refused .narrowAccess) ∧
    (a.size = .burst → hostAccess a s = .refused .burstAccess) ∧
    (a.size = .word → a.addr % 4 ≠ 0 → hostAccess a s = .refused .misalignedAccess) := by
  have hin : ¬(a.addr < s.cfg.base ∨ s.cfg.base + 4096 ≤ a.addr) := by omega
  rw [hostAccess, if_neg hin]
  refine ⟨fun hs => by rw [hs], fun hs => by rw [hs], fun hs => by rw [hs], fun hs ha => ?_⟩
  rw [hs]
  exact if_neg ha

/-- Settles O7, by where the access lies. -/
theorem otherAccessesStop : Obligations.OtherAccessesStop := by
  intro s rest a overlap hin inside
  rw [step_host hin]
  by_cases h : inside
  · obtain ⟨hbyte, hhalf, hburst, hword⟩ := hostAccess_inside
      (s := beginAccess a.op overlap { s with env := { s.env with inputs := rest } })
      (by rwa [beginAccess_cfg])
    exact ⟨fun _ => hbyte, fun _ => hhalf, fun _ => hburst, fun _ => hword, fun hn => absurd h hn⟩
  · refine ⟨fun hi => absurd hi h, fun hi => absurd hi h, fun hi => absurd hi h,
      fun hi => absurd hi h, fun _ => hostAccess_outside ?_⟩
    rwa [beginAccess_cfg]

end Sys2Proof.Machine
end

section
/-! Host reads and the buffer port: what each register reads as, while a job runs and while none does,
and what a read or a write of BUF_DATA does (10_state.md R34 to R47, 20_memory.md R84 to R91). -/

namespace Sys2Proof.Machine

/-! Reads while a job runs. -/

theorem readUnlessBusy_busy {s : State} (hb : s.status.busy = true) (r : Reg) (v : Word) :
    readUnlessBusy r s v = busyValue r s := by
  simp [readUnlessBusy, hb]

theorem readUnlessBusy_idle {s : State} (hb : s.status.busy = false) (r : Reg) (v : Word) :
    readUnlessBusy r s v = v := by
  simp [readUnlessBusy, hb]

/-- A read without side effect leaves a record of the value received. -/
theorem hostRead_of_no_effect {r : Reg} {s : State} (h : r ≠ .bufData ∨ s.status.busy = true) :
    hostRead r s =
      { s with env := { s.env with received := (readReg r s).1 :: s.env.received } } := by
  obtain ⟨a, hr, ha⟩ := hostRead_eq r s
  rw [hr, ha h]

/-- A read does not see what the host has received. -/
theorem readReg_received (r : Reg) (s : State) (l : List Word) :
    (readReg r { s with env := { s.env with received := l } }).1 = (readReg r s).1 := by
  cases r <;> rfl

/-- Reading again a register whose read has no side effect returns the same value
(20_memory.md R89). -/
theorem readReg_hostRead {r : Reg} {s : State} (h : r ≠ .bufData ∨ s.status.busy = true) :
    (readReg r (hostRead r s)).1 = (readReg r s).1 := by
  rw [hostRead_of_no_effect h, readReg_received]

/-- While BUSY a read sees the configuration, the count of the host's writes, and STATUS without
TEX_VALID: nothing that a running job changes (20_memory.md R88, R91). -/
theorem readReg_busy_congr {s t : State} (hb : s.status.busy = true) (hr : t.regs = s.regs)
    (hw : t.env.writes = s.env.writes)
    (hst : t.status = { s.status with texValid := t.status.texValid }) (r : Reg) :
    (readReg r t).1 = (readReg r s).1 := by
  have hbt : t.status.busy = true := by rw [hst]; exact hb
  cases r
  case status => simp only [readReg, hb, hbt, if_true, busyValue, hw, statusWord]; rw [hst]
  case seedUsed | texRangeLo | texRangeHi | texDimL | bufData =>
    simp only [readReg, readUnlessBusy_busy hb, readUnlessBusy_busy hbt, busyValue, hw]
  all_goals simp only [readReg, hr]

/-- The engine makes no host write. -/
theorem engineStep_writes (s : State) : (engineStep s).env.writes = s.env.writes := by
  rcases engineStep_cases s with ⟨-, h⟩ | ⟨-, -, h⟩ | ⟨-, -, -, h⟩ | ⟨-, -, -, h⟩ <;> rw [h]
  · obtain ⟨-, -, hwrites⟩ := startPhase_scan_writes s.seq.phase s
    exact hwrites
  · simp [processElement]
  · rcases leavePhase_cases s with ⟨ph, -, hl⟩ | ⟨-, hl⟩ <;> simp [hl]

/-- An engine step that leaves the job running changes no STATUS field but TEX_VALID. -/
theorem engineStep_status_running {s : State} (h : (engineStep s).status.busy = true) :
    (engineStep s).status =
      { s.status with texValid := (engineStep s).status.texValid } := by
  rcases engineStep_cases s with ⟨-, hs⟩ | ⟨-, -, hs⟩ | ⟨-, -, -, hs⟩ | ⟨-, -, -, hs⟩
  · rw [hs]
  · rw [hs]; exact (enterPhase_sameJob s).status
  · rw [hs]; exact (processElement_sameJob s).status
  · rcases leavePhase_cases s with ⟨ph, -, hl⟩ | ⟨-, hl⟩
    · rw [hs, hl]; exact (finishPhase_sameJob s.seq.phase s).status
    · rw [hs, hl] at h
      cases h

/-- Settles O41: STATUS by `statusWord_fields`, and what a read while BUSY sees by
`readReg_busy_congr`. -/
theorem readsWhileBusy : Obligations.ReadsWhileBusy := by
  refine fun s hb => ⟨fun r hr => ?_, fun hok => ?_, fun r => ?_,
    fun v => hostWrite_guarded_busy rfl v hb⟩
  · rcases hr with rfl | rfl | rfl | rfl | rfl <;> exact readUnlessBusy_busy hb _ _
  · obtain ⟨hcode, -, -, hrun⟩ := hok
    obtain ⟨hdone, herr⟩ := hrun hb
    have hread : (readReg .status s).1 =
        statusWord s.status ((busyValue .status s).getLsbD 0) := by
      simp [readReg, hb]
    obtain ⟨fbusy, fdone, ferr, fwr, fcode, fvalid, -, fop, -⟩ :=
      statusWord_fields s.status ((busyValue .status s).getLsbD 0)
    exact hread ▸ ⟨fbusy.trans hb, fdone.trans hdone, ferr.trans herr, fwr,
      fcode.trans (hcode herr), fvalid, fop⟩
  · have hread := hostRead_of_no_effect (r := r) (.inr hb)
    refine ⟨hread, readReg_hostRead (.inr hb), fun hbusy => ?_⟩
    have hvalue := readReg_busy_congr (s := hostRead r s) (by rw [hread]; exact hb)
      (engineStep_regs _) (engineStep_writes _) (engineStep_status_running hbusy) r
    exact hvalue.trans (readReg_hostRead (.inr hb))

/-! Reads while no job runs. -/

/-- CTRL holds its fields in bits 0 to 2 (10_state.md R34). -/
theorem ctrlWord_toNat (r : Regs) :
    (ctrlWord r).toNat = r.inFmt.toNat + 2 * r.seedSrc.toNat + 4 * r.irqEn.toNat := by
  have h : ∀ a b c : Bool, (0#29 ++ BitVec.ofBool a ++ BitVec.ofBool b ++ BitVec.ofBool c).toNat =
      c.toNat + 2 * b.toNat + 4 * a.toNat := by decide
  exact h _ _ _

/-- Two halves of 16 bits make a word. -/
theorem append_toNat (h l : BitVec 16) : (h ++ l).toNat = h.toNat * 2 ^ 16 + l.toNat := by
  rw [BitVec.toNat_append, ← Nat.shiftLeft_add_eq_or_of_lt l.isLt, Nat.shiftLeft_eq]

/-- The two halves of a 64-bit value, as TEX_RANGE_LO and TEX_RANGE_HI show them
(10_state.md R44). -/
theorem halves_toNat (x : BitVec 64) :
    (x.extractLsb' 0 32).toNat = x.toNat % 2 ^ 32 ∧
      (x.extractLsb' 32 32).toNat = x.toNat / 2 ^ 32 := by
  simp only [BitVec.extractLsb'_toNat, Nat.shiftRight_eq_div_pow]
  omega

/-- What the configuration registers read as, at any time: each its own field, zero-extended. -/
theorem readReg_config (s : State) :
    (readReg .ctrl s).1.toNat =
        s.regs.inFmt.toNat + 2 * s.regs.seedSrc.toNat + 4 * s.regs.irqEn.toNat ∧
      (readReg .width s).1.toNat = s.regs.width.toNat ∧
      (readReg .height s).1.toNat = s.regs.height.toNat ∧
      (readReg .texW s).1.toNat = s.regs.texW.toNat ∧
      (readReg .texH s).1.toNat = s.regs.texH.toNat ∧
      (readReg .krad s).1.toNat = s.regs.krad.toNat ∧
      (readReg .kw0 s).1.toNat = s.regs.kw0.toNat ∧
      (readReg .kw1 s).1.toNat = s.regs.kw1.toNat ∧
      (readReg .kw2 s).1.toNat = s.regs.kw2.toNat ∧
      (readReg .kw3 s).1.toNat = s.regs.kw3.toNat ∧
      (readReg .seed s).1 = s.regs.seed ∧
      (readReg .bufSel s).1.toNat = s.regs.bufSel.toNat ∧
      (readReg .bufAddr s).1 = s.regs.bufAddr := by
  have hext : ∀ {n : Nat} (x : BitVec n), n ≤ 32 → (x.setWidth 32).toNat = x.toNat :=
    fun x hn => BitVec.toNat_setWidth_of_le hn
  refine ⟨ctrlWord_toNat s.regs, hext _ ?_, hext _ ?_, hext _ ?_, hext _ ?_, hext _ ?_, hext _ ?_,
    hext _ ?_, hext _ ?_, hext _ ?_, rfl, hext _ ?_, rfl⟩ <;> decide

/-- Settles O44: while BUSY = 0 a result register reads as it stands, and only BUF_DATA's read has a
side effect. -/
theorem otherReadsHaveNoSideEffect : Obligations.OtherReadsHaveNoSideEffect := by
  refine fun s => ⟨readReg_config s, fun hb => ⟨readUnlessBusy_idle hb _ _, ?_, ?_, ?_,
    fun r hr => ⟨hostRead_of_no_effect (.inl hr), readReg_hostRead (.inl hr)⟩⟩⟩
  · simp only [readReg, readUnlessBusy_idle hb, (halves_toNat s.res.texRange).1]
  · simp only [readReg, readUnlessBusy_idle hb, (halves_toNat s.res.texRange).2]
  · simp only [readReg, readUnlessBusy_idle hb]
    exact append_toNat _ _

/-! The buffer port. -/

/-- A read of BUF_DATA while BUSY = 0: the port's value is received and BUF_ADDR advances. -/
theorem hostRead_bufData_idle {s : State} (hb : s.status.busy = false) :
    hostRead .bufData s =
      { s with
        regs := { s.regs with bufAddr := s.regs.bufAddr + 1 }
        env := { s.env with received := portValue s :: s.env.received } } := by
  simp [hostRead, readReg, readUnlessBusy, hb, advanceBufAddr]

/-- BUF_SEL 0 to 5: the byte at BUF_ADDR, by the read that frames are stated with. -/
theorem portByte_eq_peek (s : State) (b : BufId) (v : Byte)
    (h : peek s b s.regs.bufAddr.toNat = v.setWidth 64) :
    portByte s b v =
      if s.regs.bufAddr.toNat < capacity s.cfg b then
        (peek s b s.regs.bufAddr.toNat).setWidth 32 else 0 := by
  rw [portByte, h, BitVec.setWidth_setWidth_of_le _ (by decide)]

theorem portValue_byte {s : State} {b : BufId}
    (h : (s.regs.bufSel.toNat, b) ∈ ([(0, .inp), (1, .gray), (2, .out0), (3, .out1), (4, .out2),
      (5, .out3)] : List (Nat × BufId))) :
    portValue s =
      if s.regs.bufAddr.toNat < capacity s.cfg b then
        (peek s b s.regs.bufAddr.toNat).setWidth 32 else 0 := by
  simp only [List.mem_cons, List.not_mem_nil, or_false, Prod.mk.injEq] at h
  rcases h with ⟨hsel, rfl⟩ | ⟨hsel, rfl⟩ | ⟨hsel, rfl⟩ | ⟨hsel, rfl⟩ | ⟨hsel, rfl⟩ | ⟨hsel, rfl⟩ <;>
  · simp only [portValue, hsel]
    exact portByte_eq_peek s _ _ rfl

/-- Settles O42: `hostRead_bufData_idle`, and the port's value by BUF_SEL. -/
theorem bufDataRead : Obligations.BufDataRead := by
  refine ⟨fun c => ⟨rfl, by simp [capacity], by simp [capacity]⟩, fun s hb => ?_⟩
  refine ⟨portValue s, hostRead_bufData_idle hb, fun b h => portValue_byte h, fun h => ?_,
    fun h => ?_⟩
  · simp only [portValue, h, Nat.shiftRight_one]
  · simp only [portValue, h]

/-- A write of BUF_DATA while BUSY = 0, by whether it stores. -/
theorem portWrite_stores {s : State} {v : Word}
    (h : s.regs.bufSel = 0 ∧ s.regs.bufAddr.toNat < capacity s.cfg .inp) :
    portWrite v s = advanceBufAddr (writeIn s s.regs.bufAddr.toNat (v.setWidth 8)) := by
  obtain ⟨hsel, ha⟩ := h
  simp [portWrite, hsel, ha]

theorem portWrite_ignored {s : State} {v : Word}
    (h : ¬(s.regs.bufSel = 0 ∧ s.regs.bufAddr.toNat < capacity s.cfg .inp)) :
    portWrite v s = advanceBufAddr s := by
  have h' : ¬(s.regs.bufSel.toNat = 0 ∧ s.regs.bufAddr.toNat < capacity s.cfg .inp) :=
    fun ⟨hsel, ha⟩ => h ⟨BitVec.eq_of_toNat_eq hsel, ha⟩
  rw [portWrite, if_neg h']

theorem peek_advanceBufAddr (s : State) (b : BufId) (i : Nat) :
    peek (advanceBufAddr s) b i = peek s b i := by
  cases b <;> rfl

/-- A write of IN is seen at its own index of IN only. -/
theorem peek_writeIn_other {s : State} {b : BufId} {i k : Nat} (v : Byte)
    (h : ¬(b = .inp ∧ k = i)) : peek (writeIn s i v) b k = peek s b k := by
  cases b
  case inp =>
    have hk : k ≠ i := fun hk => h ⟨rfl, hk⟩
    simp only [peek, readIn_writeIn, if_neg hk]
  all_goals rfl

/-- Settles O43, by whether the write stores. -/
theorem bufDataWrite : Obligations.BufDataWrite := by
  intro s v hb a stores
  have hwrite : hostWrite .bufData v s = .next (portWrite v s) := by simp [hostWrite, hb]
  refine ⟨portWrite v s, hwrite, ?_⟩
  by_cases h : stores
  · rw [portWrite_stores h]
    refine ⟨fun _ => (readIn_writeIn s a a _).trans (if_pos rfl), fun b i hi => ?_, rfl⟩
    rw [peek_advanceBufAddr]
    exact peek_writeIn_other _ (hi h)
  · rw [portWrite_ignored h]
    exact ⟨fun hs => absurd hs h, fun b i _ => peek_advanceBufAddr s b i, rfl⟩

end Sys2Proof.Machine
end

section
/-! The command word: decoding and encoding are inverse, on words and on little-endian bytes
(30_encoding.md R120 to R125, 20_memory.md R82). -/

namespace Sys2Proof

/-! Words. -/

theorem commandWord_statement (i : Instr) : Laws.CommandWord.Statement i := by
  cases i
  case nop => exact Laws.CommandWord.nop
  case gray => exact Laws.CommandWord.gray
  case bayer => exact Laws.CommandWord.bayer
  case random => exact Laws.CommandWord.random
  case fs => exact Laws.CommandWord.fs
  case blue => exact Laws.CommandWord.blue
  case genTex => exact Laws.CommandWord.genTex
  case blueDither => exact Laws.CommandWord.blueDither
  case all => exact Laws.CommandWord.all

@[simp] theorem opOfCode_opCode (i : Instr) : opOfCode (opCode i) = some i := by
  obtain ⟨-, -, -, hop, -⟩ := commandWord_statement i
  exact hop

@[simp] theorem encode_mbz (i : Instr) : (encode i).extractLsb' 4 28 = 0#28 := by
  obtain ⟨hmbz, -⟩ := commandWord_statement i
  exact hmbz

@[simp] theorem encode_op (i : Instr) : (encode i).setWidth 4 = opCode i := by
  obtain ⟨-, hop, -⟩ := commandWord_statement i
  exact hop

/-- Each of the nine codes belongs to one command (R121). -/
theorem opCode_of_opOfCode {c : BitVec 4} {i : Instr} (h : opOfCode c = some i) :
    c = opCode i := by
  unfold opOfCode at h
  split at h
  case h_10 => cases h
  all_goals
    cases h
    exact BitVec.eq_of_toNat_eq ‹_›

theorem opOfCode_reserved {c : BitVec 4} (h : 0x9#4 ≤ c) : opOfCode c = none := by
  have hc : 9 ≤ c.toNat := h
  unfold opOfCode
  split
  case h_10 => rfl
  all_goals omega

/-- The two fields of the one format (R120) make up the word. -/
theorem word_eq_fields (w : Word) : w = w.extractLsb' 4 28 ++ w.setWidth 4 := by
  rw [BitVec.setWidth_eq_extractLsb' (by decide),
    BitVec.extractLsb'_append_extractLsb'_eq_extractLsb' (by decide), BitVec.extractLsb'_eq_self]

/-- A word with a bit of 31..4 set is illegal, for that bit (R123). -/
theorem decode_of_mbz {w : Word} (h : w.extractLsb' 4 28 ≠ 0#28) :
    decode w = .error .mbzNotZero := by
  simp [decode, mbzZero, h]

/-- With bits 31..4 zero the op code decides (R125). -/
theorem decode_of_op {w : Word} (h : w.extractLsb' 4 28 = 0#28) :
    decode w = (opOfCode (w.setWidth 4)).elim (.error .reservedOp) .ok := by
  cases hop : opOfCode (w.setWidth 4) <;> simp [decode, mbzZero, h, hop]

theorem decode_of_reserved {w : Word} (h : w.extractLsb' 4 28 = 0#28)
    (hop : 0x9#4 ≤ w.setWidth 4) : decode w = .error .reservedOp := by
  rw [decode_of_op h, opOfCode_reserved hop, Option.elim_none]

theorem decode_of_opCode (i : Instr) {w : Word} (h : w.extractLsb' 4 28 = 0#28)
    (hop : w.setWidth 4 = opCode i) : decode w = .ok i := by
  rw [decode_of_op h, hop, opOfCode_opCode, Option.elim_some]

@[simp] theorem decode_encode (i : Instr) : decode (encode i) = .ok i :=
  decode_of_opCode i (encode_mbz i) (encode_op i)

/-- A word that decodes has bits 31..4 zero and the command's op code below, and these two fields
are the word. -/
theorem encode_of_decode {w : Word} {i : Instr} (h : decode w = .ok i) : w = encode i := by
  by_cases hmbz : w.extractLsb' 4 28 = 0#28
  case neg => simp [decode_of_mbz hmbz] at h
  have hop : w.setWidth 4 = opCode i := by
    rw [decode_of_op hmbz] at h
    cases hc : opOfCode (w.setWidth 4) with
    | none => simp [hc] at h
    | some j =>
      obtain rfl : j = i := by simpa [hc] using h
      exact opCode_of_opOfCode hc
  calc w = w.extractLsb' 4 28 ++ w.setWidth 4 := word_eq_fields w
    _ = 0#28 ++ opCode i := by rw [hmbz, hop]

/-! Bytes. -/

/-- The bytes of a word, joined as `decodeBytes` joins them, are the word (R82). -/
theorem append_wordBytes (w : Word) :
    w.extractLsb' 24 8 ++ w.extractLsb' 16 8 ++ w.extractLsb' 8 8 ++ w.extractLsb' 0 8 = w := by
  iterate 3 rw [BitVec.extractLsb'_append_extractLsb'_eq_extractLsb' (by decide)]
  exact BitVec.extractLsb'_eq_self

/-- Four bytes, joined with the first lowest, are the bytes of that word (R82). -/
theorem wordBytes_append (b0 b1 b2 b3 : Byte) :
    wordBytes (b3 ++ b2 ++ b1 ++ b0) = [b0, b1, b2, b3] := by
  simp only [wordBytes, List.cons.injEq, and_true]
  refine ⟨BitVec.extractLsb'_append_eq_right, ?_, ?_, ?_⟩
  · rw [BitVec.extractLsb'_append_eq_of_le (by decide)]
    exact BitVec.extractLsb'_append_eq_right
  · iterate 2 rw [BitVec.extractLsb'_append_eq_of_le (by decide)]
    exact BitVec.extractLsb'_append_eq_right
  · iterate 2 rw [BitVec.extractLsb'_append_eq_of_le (by decide)]
    exact BitVec.extractLsb'_append_eq_left

/-- The bytes of a word decode as the word does, and the bytes after them stay. -/
theorem decodeBytes_wordBytes (w : Word) (rest : List Byte) :
    decodeBytes (wordBytes w ++ rest) = (decode w).map (·, rest) := by
  simp only [wordBytes, List.cons_append, List.nil_append, decodeBytes, append_wordBytes]
  cases decode w <;> rfl

/-- Bytes that decode begin with the four bytes of a word that does. -/
theorem decodeBytes_ok {bs rest : List Byte} {i : Instr} (h : decodeBytes bs = .ok (i, rest)) :
    ∃ w, bs = wordBytes w ++ rest ∧ decode w = .ok i := by
  match bs, h with
  | b0 :: b1 :: b2 :: b3 :: tail, h =>
    have hbs : b0 :: b1 :: b2 :: b3 :: tail = wordBytes (b3 ++ b2 ++ b1 ++ b0) ++ tail := by
      rw [wordBytes_append]
      rfl
    rw [hbs, decodeBytes_wordBytes] at h
    cases hdec : decode (b3 ++ b2 ++ b1 ++ b0) with
    | error e => simp [hdec, Except.map] at h
    | ok j =>
      obtain ⟨rfl, rfl⟩ : j = i ∧ tail = rest := by simpa [hdec, Except.map] using h
      exact ⟨_, hbs, hdec⟩

/-- Settles O2: on words the two fields are the word, and on bytes the four bytes are the word. -/
theorem decodeEncodeAgree : Obligations.DecodeEncodeAgree := by
  refine ⟨fun i _ => decode_encode i, fun w i h => encode_of_decode h, fun i rest => ?_,
    fun bs rest i h => ?_⟩
  · rw [encodeBytes, decodeBytes_wordBytes, decode_encode]
    rfl
  · obtain ⟨w, hbs, hdec⟩ := decodeBytes_ok h
    rw [hbs, encode_of_decode hdec]
    rfl

/-- Settles O1, by the two fields of the word and the nine op codes. -/
theorem decoderIsTotal : Obligations.DecoderIsTotal := by
  refine fun w => ⟨fun h => ⟨_, decode_of_mbz h⟩, fun h => ?_⟩
  exact ⟨decode_of_opCode .nop h, decode_of_opCode .gray h, decode_of_opCode .bayer h,
    decode_of_opCode .random h, decode_of_opCode .fs h, decode_of_opCode .blue h,
    decode_of_opCode .genTex h, decode_of_opCode .blueDither h, decode_of_opCode .all h,
    fun hop => ⟨_, decode_of_reserved h hop⟩⟩

/-- Settles O3: the five words are their commands' words, 0x10 has bit 4 set, and 9 is the first
reserved code. -/
theorem sampleWordsDecode : Obligations.SampleWordsDecode :=
  ⟨decode_encode .bayer, decode_encode .fs, decode_encode .genTex, decode_encode .blueDither,
    decode_encode .all, decode_of_mbz (by decide), decode_of_reserved (by decide) (by decide)⟩

end Sys2Proof
end

section
/-! The operands of a command: the configuration registers and buffer elements that the statements
on commands name (30_encoding.md R122, R126, 10_state.md R34 to R58). -/

namespace Sys2Proof.Machine

/-- The gray value of a pixel, by IN_FMT (41_grayscale.md R171). -/
theorem grayValue_gray8 {s : State} (h : s.regs.inFmt = true) (p : Nat) :
    grayValue s p = readIn s p :=
  if_pos h

theorem grayValue_rgb24 {s : State} (h : s.regs.inFmt = false) (p : Nat) :
    grayValue s p = gray3 s.cfg (readIn s (3 * p)) (readIn s (3 * p + 1)) (readIn s (3 * p + 2)) :=
  if_neg (by simp [h])

/-- An element of ACC as 16-bit two's complement (10_state.md R58). -/
theorem accValue_eq (s : State) (i : Nat) :
    accValue s i =
      if (readAcc s i).toNat < 2 ^ 15 then ((readAcc s i).toNat : Int)
      else (readAcc s i).toNat - 2 ^ 16 := by
  rw [accValue, BitVec.toInt_eq_toNat_cond]
  split <;> split <;> omega

/-- Settles O59: the names are the registers by definition; `peek` widens what the engine reads. -/
theorem operandsAreTheConfigurationRegisters :
    Obligations.OperandsAreTheConfigurationRegisters := by
  intro s
  refine ⟨rfl, rfl, rfl, rfl, rfl, rfl, rfl,
    fun p => ⟨fun h => grayValue_gray8 h p, fun h => grayValue_rgb24 h p⟩, fun i => ?_⟩
  have widen : ∀ {n : Nat} {v : BitVec n}, n ≤ 64 → (v.setWidth 64).toNat = v.toNat :=
    BitVec.toNat_setWidth_of_le
  exact ⟨widen (by decide), widen (by decide), widen (by decide), widen (by decide),
    widen (by decide), widen (by decide), widen (by decide), rfl, widen (by decide),
    accValue_eq s i⟩

end Sys2Proof.Machine
end

section
/-! One step of the sequencer: the command that runs next, acceptance, an engine step inside a scan,
completion, and what a host access does while a job runs (40_sequencer.md R152 to R158). -/

namespace Sys2Proof.Machine

/-! The next step. -/

/-- Settles O5: the placed input is the CMD write of O4, with a word that decodes to the command. -/
theorem fetchedWordRuns : Obligations.FetchedWordRuns := by
  intro s i hbase
  have hword : BitVec.ofNat 32 ((encode i).toNat % 2 ^ 32) = encode i := by
    rw [Nat.mod_eq_of_lt (encode i).isLt, BitVec.ofNat_toNat, BitVec.setWidth_eq]
  have hplace : s.withFetchWord 32 (encode i).toNat = placeCommand (encode i) s := by
    rw [State.withFetchWord, hword]
  rw [hplace]
  exact stepRunsDecodedCommand (placeCommand (encode i) s) s.env.inputs (encode i) i false hbase
    rfl (decode_encode i)

theorem step_of_no_input {s : State} (h : s.env.inputs = []) : step s = .next (engineStep s) := by
  simp only [step, stepOnce, h]

theorem engineStep_idle {s : State} (h : s.status.busy = false) : engineStep s = s := by
  simp [engineStep, h]

/-- Settles O8, by the next input. -/
theorem engineMovesWhenNothingElseDoes : Obligations.EngineMovesWhenNothingElseDoes := by
  refine fun s => ⟨step_of_no_input, fun rest h => ?_, fun h hidle => ?_⟩
  · simp only [step, stepOnce, h, takeInput]
  · rw [step_of_no_input h, engineStep_idle hidle]

/-! Acceptance and completion. -/

/-- A command that passes its checks, where the next input comes before its completion. -/
theorem exec_accepts {i : Instr} {s : State} (hi : i ≠ .nop) (hb : s.status.busy = false)
    (hc : checksPass i s) (ho : s.env.overlap = true) : exec i s = .next (accept i s) := by
  rw [exec_eq_issueJob hi]
  exact issueJob_accepts hb ((firstFailing_checksOf i s).mpr hc) ho

/-- Every job starts with GRAYCONV or, where it makes a texture before it reads the image, with
TEX_FILL (40_sequencer.md R151). -/
theorem phaseList_headD {i : Instr} (hi : i ≠ .nop) (c : Config) :
    (phaseList c i).headD .idle = if i = .blue ∨ i = .genTex then .texFill else .grayconv := by
  cases i
  case nop => exact absurd rfl hi
  all_goals rfl

/-- Settles O12: neither GRAYCONV nor TEX_FILL begins at column 1. -/
theorem acceptanceOpensTheJob : Obligations.AcceptanceOpensTheJob := by
  intro i s hi hb ho hc
  have hcolumn : firstColumn ((phaseList s.cfg i).headD .idle) = 0 := by
    rw [phaseList_headD hi]
    split <;> rfl
  rw [exec_accepts hi hb hc ho, accept, pointAtPhase, hcolumn, phaseList_headD hi]
  rfl

theorem engineStep_leaves {s : State} (hb : s.status.busy = true) (he : s.seq.entered = true)
    (h : scanEnded s.seq.phase s s.seq.sy.toNat = true) : engineStep s = leavePhase s := by
  simp [engineStep, hb, he, h]

theorem leavePhase_last {s : State} (h : (currentPhases s)[s.seq.pos + 1]? = none) :
    leavePhase s = complete (finishPhase s.seq.phase s) := by
  simp only [leavePhase, h]

/-- The end of a phase writes TEX_VALID only, and that in TEX_NORM (45_bluenoise_texture.md R236). -/
theorem finishPhase_eq (ph : Phase) (s : State) :
    finishPhase ph s =
      { s with
        status :=
          { s.status with texValid := s.status.texValid || decide (ph = .texNorm) } } := by
  cases ph
  case texNorm => simp [finishPhase, finishTexNorm]
  all_goals simp [finishPhase]

/-- Settles O48: the last phase's end action, then `complete`. -/
theorem completionAtOneInstant : Obligations.CompletionAtOneInstant := by
  intro s hb he hscan hlast
  rw [engineStep_leaves hb he hscan, leavePhase_last hlast, finishPhase_eq]
  exact ⟨rfl, by simp [irq, completeStatus]⟩

/-! One element. -/

theorem engineStep_processes {s : State} (hb : s.status.busy = true) (he : s.seq.entered = true)
    (h : scanEnded s.seq.phase s s.seq.sy.toNat = false) : engineStep s = processElement s := by
  simp [engineStep, hb, he, h]

/-- A scan position on the grid is before the end of the scan. -/
theorem scanEnded_false_of_lt {ph : Phase} (hs : ph ≠ .fsScan) {s : State} {y x : Nat}
    (hx : x < gridW ph s) (hy : y < gridH ph s) : scanEnded ph s y = false := by
  rw [Bool.eq_false_iff, ne_eq, scanEnded_of_ne_fsScan hs]
  omega

/-- Settles O47: the raster advance, read back as 16-bit registers. -/
theorem engineStepProcessesOneElement : Obligations.EngineStepProcessesOneElement := by
  intro s hb he hs hbd hx hy u
  rw [engineStep_processes hb he (scanEnded_false_of_lt hs hx hy), processElement,
    nextElement_raster hs hbd, rasterNext]
  split <;> simp [u, BitVec.ofNat_add]

/-! The host, while a job runs. -/

theorem hostRead_busy {r : Reg} {s : State} (hb : s.status.busy = true) :
    hostRead r s =
      { s with env := { s.env with received := (readReg r s).1 :: s.env.received } } := by
  obtain ⟨a, h, ha⟩ := hostRead_eq r s
  rw [h, ha (.inr hb)]

/-- While BUSY a host write reaches STATUS only, in the bits DONE, ERR, ERRCODE and WRBUSY. -/
theorem hostWrite_busy {r : Reg} {v : Word} {s t : State} (hb : s.status.busy = true)
    (h : hostWrite r v s = .next t) :
    ∃ done err code wr,
      t =
        { s with
          status := { s.status with done := done, err := err, errCode := code, wrbusy := wr } } := by
  rcases hostWrite_cases h with ⟨-, rfl⟩ | ⟨hidle, -⟩ | ⟨-, rfl⟩ | ⟨hidle, -⟩ | ⟨hidle, -⟩ |
    ⟨-, -, rfl⟩
  · exact ⟨_, _, _, _, rfl⟩
  · simp [hb] at hidle
  · exact ⟨_, _, _, _, writeStatus_eq v s⟩
  · simp [hb] at hidle
  · simp [hb] at hidle
  · exact ⟨_, _, _, _, rfl⟩

/-- Settles O52, by the direction of the access. -/
theorem hostCannotDisturbARunningJob : Obligations.HostCannotDisturbARunningJob := by
  intro s t a hb h
  obtain ⟨r, ⟨-, rfl⟩ | ⟨v, -, hw⟩⟩ := hostAccess_cases h
  · rw [hostRead_busy hb]
    exact ⟨rfl, rfl, rfl, rfl, rfl, rfl, rfl, rfl, hb, rfl, rfl⟩
  · obtain ⟨done, err, code, wr, rfl⟩ := hostWrite_busy hb hw
    exact ⟨rfl, rfl, rfl, rfl, rfl, rfl, rfl, rfl, hb, rfl, rfl⟩

end Sys2Proof.Machine
end

section
/-! The elements of each phase in raster order, how many there are (40_sequencer.md R155,
44_error_diffusion.md R205), and that the engine's scan goes over them one after the other (R152,
R153). -/

namespace Sys2Proof.Machine

/-! Raster order. -/

/-- Raster order (00_scope.md R13): by row, then by column. -/
abbrev RasterLt (p q : Nat × Nat) : Prop :=
  p.1 < q.1 ∨ (p.1 = q.1 ∧ p.2 < q.2)

/-- Raster order, or the same element. -/
abbrev RasterLe (p q : Nat × Nat) : Prop :=
  p.1 < q.1 ∨ (p.1 = q.1 ∧ p.2 ≤ q.2)

theorem RasterLt.ne {p q : Nat × Nat} (h : RasterLt p q) : p ≠ q := by
  rintro rfl
  omega

/-- Rows from top to bottom, each with its columns from left to right, are in raster order. -/
theorem pairwise_rows {f : Nat → Nat} (hf : ∀ a b, a < b → f a < f b) (w h : Nat) :
    ((List.range h).flatMap fun y => (List.range w).map fun x => (y, f x)).Pairwise RasterLt := by
  rw [List.pairwise_flatMap]
  refine ⟨fun y _ => ?_, List.pairwise_lt_range.imp fun hy p hp q hq => ?_⟩
  · rw [List.pairwise_map]
    exact List.pairwise_lt_range.imp fun hx => .inr ⟨rfl, hf _ _ hx⟩
  · obtain ⟨a, -, rfl⟩ := List.mem_map.mp hp
    obtain ⟨b, -, rfl⟩ := List.mem_map.mp hq
    exact .inl hy

theorem rasterList_pairwise (w h : Nat) : (rasterList w h).Pairwise RasterLt :=
  pairwise_rows (f := id) (fun _ _ hab => hab) w h

theorem visitList_pairwise (w h : Nat) : (visitList w h).Pairwise RasterLt :=
  pairwise_rows (fun _ _ hab => Nat.add_lt_add_right hab 1) (w - 2) (h - 1)

theorem borderList_pairwise (w h : Nat) : (borderList w h).Pairwise RasterLt :=
  (rasterList_pairwise w h).filter _

/-- The elements of every phase are in raster order. -/
theorem phaseElements_pairwise (ph : Phase) (s : State) :
    (phaseElements ph s).Pairwise RasterLt := by
  cases ph
  case fsScan => exact visitList_pairwise _ _
  case fsBorder => exact borderList_pairwise _ _
  all_goals exact rasterList_pairwise _ _

/-! How many elements a phase and a job step over. -/

/-- The pixels of the image that are no border pixels are the visited ones (44_error_diffusion.md
R205). -/
theorem filter_not_border_perm (w h : Nat) :
    ((rasterList w h).filter fun p => !isBorder w h p.1 p.2).Perm (visitList w h) := by
  have nodup {l : List (Nat × Nat)} (hl : l.Pairwise RasterLt) : l.Nodup := hl.imp RasterLt.ne
  rw [List.perm_ext_iff_of_nodup (nodup ((rasterList_pairwise w h).filter _))
    (nodup (visitList_pairwise w h))]
  rintro ⟨y, x⟩
  simp only [List.mem_filter, mem_rasterList, mem_visitList, isBorder, Bool.not_eq_true',
    Bool.or_eq_false_iff, decide_eq_false_iff_not]
  omega

theorem length_borderList (w h : Nat) :
    (borderList w h).length = w * h - (h - 1) * (w - 2) := by
  have hsplit : (rasterList w h).length =
      (borderList w h).length + ((rasterList w h).filter fun p => !isBorder w h p.1 p.2).length :=
    List.length_eq_length_filter_add _
  rw [(filter_not_border_perm w h).length_eq, length_rasterList, length_visitList,
    Nat.mul_comm] at hsplit
  omega

/-- R155 names n_fs by cases; with W < 3 or H < 2 the product is 0 as well. -/
theorem visits_eq (w h : Nat) :
    (if 3 ≤ w ∧ 2 ≤ h then (h - 1) * (w - 2) else 0) = (h - 1) * (w - 2) := by
  split
  · rfl
  · rename_i hsmall
    rcases Nat.lt_or_ge w 3 with hw | hw
    · rw [show w - 2 = 0 by omega, Nat.mul_zero]
    · rw [show h - 1 = 0 by omega, Nat.zero_mul]

/-- How many elements a phase steps over (40_sequencer.md R155). -/
theorem phaseCount_eq (s : State) (ph : Phase) :
    phaseCount s ph =
      match ph with
      | .idle => 0
      | .fsScan => (imageH s - 1) * (imageW s - 2)
      | .fsBorder => imageW s * imageH s - (imageH s - 1) * (imageW s - 2)
      | .texFill | .texBlur | .texNorm => s.regs.texW.toNat * s.regs.texH.toNat
      | _ => imageW s * imageH s := by
  cases ph
  case fsScan => exact length_visitList _ _
  case fsBorder => exact length_borderList _ _
  case idle => exact length_rasterList _ _
  all_goals exact (length_rasterList _ _).trans (Nat.mul_comm _ _)

/-- Settles O49: each phase's count, summed along each command's list, with and without
FS_BORDER. -/
theorem jobElementCounts : Obligations.JobElementCounts := by
  intro s w h img tex fs bdr
  have hfs : fs = (h - 1) * (w - 2) := visits_eq w h
  have hbdr : ((borderPhases s.cfg).map (phaseCount s)).sum = bdr := by
    simp only [bdr, hfs, img]
    cases hb : s.cfg.fsBorder <;> simp [borderPhases, hb, phaseCount_eq, w, h]
  simp only [jobElements, phaseList, texturePhases, List.map_append, List.map_cons, List.map_nil,
    List.sum_append, List.sum_cons, List.sum_nil, hbdr, phaseCount_eq, hfs]
  simp only [img, tex, w, h]
  omega

/-! The engine's scan. -/

/-- No element of a phase comes at or after a position where its scan has ended. -/
theorem scanEnded_of_le {ph : Phase} {s : State} {p e : Nat × Nat} (h : RasterLe p e)
    (he : e ∈ phaseElements ph s) : scanEnded ph s p.1 = false := by
  obtain ⟨y, x⟩ := e
  obtain ⟨hy, hx⟩ := mem_phaseElements_lt he
  by_cases hs : ph = .fsScan
  · subst hs
    obtain ⟨hv, hv', hv''⟩ := (mem_visitList _ _ y x).mp he
    rw [Bool.eq_false_iff, ne_eq, scanEnded_fsScan]
    omega
  · rw [Bool.eq_false_iff, ne_eq, scanEnded_of_ne_fsScan hs]
    omega

/-- The engine's next position is the first one after an element from which an element is left:
what comes after (y, x) is what comes at or after it. -/
theorem nextElement_le_iff {ph : Phase} {s : State} {p e : Nat × Nat}
    (hp : p ∈ phaseElements ph s) (he : e ∈ phaseElements ph s) :
    RasterLe (nextElement ph s p.1 p.2) e ↔ RasterLt p e := by
  obtain ⟨y, x⟩ := p
  obtain ⟨y', x'⟩ := e
  by_cases hs : ph = .fsScan
  · subst hs
    have hv := (mem_visitList _ _ y x).mp hp
    have hv' := (mem_visitList _ _ y' x').mp he
    simp only [nextElement]
    split <;> omega
  · by_cases hb : ph = .fsBorder
    · subst hb
      have hv := (mem_borderList _ _ y x).mp hp
      have hv' := (mem_borderList _ _ y' x').mp he
      simp only [nextElement, rasterNext]
      split
      · omega
      · split <;> omega
    · obtain ⟨hy, hx⟩ := mem_phaseElements_lt hp
      obtain ⟨hy', hx'⟩ := mem_phaseElements_lt he
      rw [nextElement_raster hs hb, rasterNext]
      split <;> omega

/-- From position p the engine's scan goes over the elements of a list, one after the other, and has
then ended. -/
def ScansOver (ph : Phase) (s : State) : Nat × Nat → List (Nat × Nat) → Prop
  | p, [] => scanEnded ph s p.1 = true
  | p, e :: r =>
    e = p ∧ e ∈ phaseElements ph s ∧ scanEnded ph s e.1 = false ∧
      ScansOver ph s (nextElement ph s e.1 e.2) r

/-- From a position of the scan the engine goes over the elements that are left there. -/
theorem scansOver_rest {ph : Phase} {s : State} {p : Nat × Nat} {l : List (Nat × Nat)}
    (hsort : l.Pairwise RasterLt) (hp : ScanAt ph s p)
    (hmem : ∀ e, e ∈ l ↔ e ∈ phaseElements ph s ∧ RasterLe p e) : ScansOver ph s p l := by
  induction l generalizing p with
  | nil =>
    refine hp.resolve_right fun hin => ?_
    exact absurd ((hmem p).mpr ⟨hin, .inr ⟨rfl, le_refl _⟩⟩) List.not_mem_nil
  | cons e r ih =>
    obtain ⟨hfirst, hrest⟩ := List.pairwise_cons.mp hsort
    obtain ⟨hin, hle⟩ := (hmem e).mp List.mem_cons_self
    have hnot : scanEnded ph s p.1 = false := scanEnded_of_le hle hin
    have hp : p ∈ phaseElements ph s := hp.resolve_left (by simp [hnot])
    have hep : e = p := by
      rcases List.mem_cons.mp ((hmem p).mpr ⟨hp, .inr ⟨rfl, le_refl _⟩⟩) with h | h
      · exact h.symm
      · have := hfirst p h
        omega
    subst hep
    refine ⟨rfl, hin, hnot, ih hrest (scanAt_nextElement hin) fun q => ?_⟩
    constructor
    · intro hq
      have hqin := ((hmem q).mp (List.mem_cons_of_mem _ hq)).1
      exact ⟨hqin, (nextElement_le_iff hin hqin).mpr (hfirst q hq)⟩
    · rintro ⟨hqin, hqle⟩
      have hlt := (nextElement_le_iff hin hqin).mp hqle
      refine List.mem_of_ne_of_mem hlt.ne.symm ((hmem q).mpr ⟨hqin, ?_⟩)
      omega

/-- From its first element the engine goes over all elements of a phase. -/
theorem scansOver_phase (ph : Phase) (s : State) :
    ScansOver ph s (0, (firstColumn ph).toNat) (phaseElements ph s) := by
  refine scansOver_rest (phaseElements_pairwise ph s) (scanAt_firstElement ph s) fun e => ?_
  refine ⟨fun he => ⟨he, ?_⟩, fun h => h.1⟩
  by_cases hs : ph = .fsScan
  · subst hs
    have hv := (mem_visitList _ _ e.1 e.2).mp he
    show RasterLe (0, 1) e
    omega
  · rw [firstColumn_of_ne_fsScan hs]
    omega

end Sys2Proof.Machine
end

section
/-! No phase reads or writes where its job stands (10_state.md R63): what the engine's steps do to a
state, apart from that (40_sequencer.md R153). -/

namespace Sys2Proof.Machine

/-! What no phase reads or writes. -/

/-- Where a job stands: the phase and its place in the list, the scan, and the choice of timing
(log 2, 12). -/
structure Progress where
  phase : Phase
  pos : Nat
  entered : Bool
  sy : BitVec 16
  sx : BitVec 16
  overlap : Bool

/-- The state with its job standing elsewhere. -/
def withProgress (c : Progress) (s : State) : State :=
  { s with
    seq :=
      { s.seq with phase := c.phase, pos := c.pos, entered := c.entered, sy := c.sy, sx := c.sx }
    env := { s.env with overlap := c.overlap } }

/-- A job at the first element of a phase that has not been entered (40_sequencer.md R152). -/
def phaseStart (ph : Phase) (pos : Nat) (overlap : Bool) : Progress where
  phase := ph
  pos := pos
  entered := false
  sy := 0
  sx := firstColumn ph
  overlap := overlap

/-- A job at a position of an entered phase. -/
def inPhase (ph : Phase) (pos : Nat) (overlap : Bool) (sy sx : BitVec 16) : Progress where
  phase := ph
  pos := pos
  entered := true
  sy := sy
  sx := sx
  overlap := overlap

theorem nextElement_congr {s t : State} (hr : t.regs = s.regs) (hres : t.res = s.res) (ph : Phase)
    (y x : Nat) : nextElement ph t y x = nextElement ph s y x := by
  cases s; cases t; cases hr; cases hres; cases ph <;> rfl

section Unread

variable (c : Progress) (s : State)

@[simp] theorem withProgress_status : (withProgress c s).status = s.status := rfl

@[simp] theorem withProgress_phase : (withProgress c s).seq.phase = c.phase := rfl

@[simp] theorem withProgress_pos : (withProgress c s).seq.pos = c.pos := rfl

@[simp] theorem withProgress_entered : (withProgress c s).seq.entered = c.entered := rfl

@[simp] theorem withProgress_sy : (withProgress c s).seq.sy = c.sy := rfl

@[simp] theorem withProgress_sx : (withProgress c s).seq.sx = c.sx := rfl

theorem currentPhases_withProgress : currentPhases (withProgress c s) = currentPhases s := rfl

theorem scanEnded_withProgress (ph : Phase) (y : Nat) :
    scanEnded ph (withProgress c s) y = scanEnded ph s y :=
  scanEnded_congr rfl rfl ph y

theorem phaseElements_withProgress (ph : Phase) :
    phaseElements ph (withProgress c s) = phaseElements ph s :=
  phaseElements_congr rfl rfl ph

theorem nextElement_withProgress (ph : Phase) (y x : Nat) :
    nextElement ph (withProgress c s) y x = nextElement ph s y x :=
  nextElement_congr rfl rfl ph y x

theorem reseed_withProgress : reseed (withProgress c s) = withProgress c (reseed s) := by
  unfold reseed
  cases h : s.regs.seedSrc <;> simp [withProgress, h]

theorem startPhase_withProgress (ph : Phase) :
    startPhase ph (withProgress c s) = withProgress c (startPhase ph s) := by
  cases ph
  case random => exact reseed_withProgress c s
  case texFill =>
    exact reseed_withProgress c
      { s with
        res := { s.res with twl := s.regs.texW, thl := s.regs.texH }
        status := { s.status with texValid := false } }
  all_goals rfl

theorem noteExtremes_withProgress (t : Nat) (b : BitVec 64) :
    noteExtremes t b (withProgress c s) = withProgress c (noteExtremes t b s) := by
  unfold noteExtremes
  split <;> rfl

theorem stepElement_withProgress (ph : Phase) (y x : Nat) :
    stepElement ph y x (withProgress c s) = withProgress c (stepElement ph y x s) := by
  cases ph
  case texBlur => exact noteExtremes_withProgress c (writeTex s (cellIndex s y x) _) _ _
  all_goals rfl

theorem finishPhase_withProgress (ph : Phase) :
    finishPhase ph (withProgress c s) = withProgress c (finishPhase ph s) := by
  cases ph <;> rfl

theorem runElements_withProgress (ph : Phase) (l : List (Nat × Nat)) :
    runElements ph l (withProgress c s) = withProgress c (runElements ph l s) := by
  induction l generalizing s with
  | nil => rfl
  | cons e r ih => rw [runElements_cons, stepElement_withProgress, ih, runElements_cons]

theorem runPhase_withProgress (ph : Phase) :
    runPhase ph (withProgress c s) = withProgress c (runPhase ph s) := by
  rw [runPhase, startPhase_withProgress, phaseElements_withProgress, runElements_withProgress,
    finishPhase_withProgress, runPhase]

theorem runPhases_withProgress (l : List Phase) :
    runPhases l (withProgress c s) = withProgress c (runPhases l s) := by
  induction l generalizing s with
  | nil => rfl
  | cons ph r ih => rw [runPhases_cons, runPhase_withProgress, ih, runPhases_cons]

end Unread

/-! The engine's three kinds of step. -/

theorem SameJob.currentPhases {s t : State} (h : SameJob s t) :
    currentPhases t = currentPhases s := by
  simp only [Machine.currentPhases, h.curOp, h.cfg]

/-- What follows a phase: the next one of the list, or completion (40_sequencer.md R153, R158). -/
def afterPhase (c : Progress) (s : State) : State :=
  match (currentPhases s)[c.pos + 1]? with
  | some ph => withProgress (phaseStart ph (c.pos + 1) c.overlap) s
  | none => complete (withProgress c s)

theorem afterPhase_last {c : Progress} {s : State} (h : (currentPhases s)[c.pos + 1]? = none) :
    afterPhase c s = complete (withProgress c s) := by
  simp only [afterPhase, h]

theorem afterPhase_next {c : Progress} {s : State} {ph : Phase}
    (h : (currentPhases s)[c.pos + 1]? = some ph) :
    afterPhase c s = withProgress (phaseStart ph (c.pos + 1) c.overlap) s := by
  simp only [afterPhase, h]

section Step

variable {c : Progress} {s : State} (hb : s.status.busy = true)
include hb

theorem engineStep_enter (he : c.entered = false) :
    engineStep (withProgress c s) =
      withProgress { c with entered := true } (startPhase c.phase s) := by
  have hstep : engineStep (withProgress c s) = enterPhase (withProgress c s) := by
    simp [engineStep, hb, he]
  rw [hstep]
  simp only [enterPhase, withProgress_phase, startPhase_withProgress]
  rfl

theorem engineStep_element (he : c.entered = true)
    (h : scanEnded c.phase s c.sy.toNat = false) :
    engineStep (withProgress c s) =
      withProgress
        { c with
          sy := BitVec.ofNat 16 (nextElement c.phase s c.sy.toNat c.sx.toNat).1
          sx := BitVec.ofNat 16 (nextElement c.phase s c.sy.toNat c.sx.toNat).2 }
        (stepElement c.phase c.sy.toNat c.sx.toNat s) := by
  rw [engineStep_processes (s := withProgress c s) hb he
    ((scanEnded_withProgress c s c.phase _).trans h)]
  simp only [processElement, withProgress_phase, withProgress_sy, withProgress_sx,
    nextElement_withProgress, stepElement_withProgress]
  rfl

theorem engineStep_leave (he : c.entered = true)
    (h : scanEnded c.phase s c.sy.toNat = true) :
    engineStep (withProgress c s) = afterPhase c (finishPhase c.phase s) := by
  rw [engineStep_leaves (s := withProgress c s) hb he
    ((scanEnded_withProgress c s c.phase _).trans h)]
  simp only [leavePhase, afterPhase, withProgress_phase, withProgress_pos,
    currentPhases_withProgress, finishPhase_withProgress,
    (finishPhase_sameJob c.phase s).currentPhases]
  cases (currentPhases s)[c.pos + 1]? <;> rfl

end Step

end Sys2Proof.Machine
end

section
/-! A job stepped by the engine: its steps carry the states of the job function along, phase by phase,
so it takes as many steps as R155 counts elements, and two for each phase, and ends where the whole job
ends (40_sequencer.md R155, R159, R160; log 12). -/

namespace Sys2Proof.Machine

/-! Runs of the engine. -/

theorem engineRun_add (m n : Nat) (s : State) :
    engineRun (m + n) s = engineRun n (engineRun m s) := by
  induction m generalizing s with
  | zero => rw [Nat.zero_add]; rfl
  | succ m ih => rw [Nat.succ_add]; exact ih (engineStep s)

/-- `n` engine steps lead from `s` to `t`, each taken while BUSY. -/
structure BusyRun (n : Nat) (s t : State) : Prop where
  ends : engineRun n s = t
  busy : ∀ m, m < n → (engineRun m s).status.busy = true

theorem BusyRun.refl (s : State) : BusyRun 0 s s :=
  ⟨rfl, nofun⟩

theorem BusyRun.one {s t : State} (hb : s.status.busy = true) (h : engineStep s = t) :
    BusyRun 1 s t :=
  ⟨h, fun m hm => by rw [Nat.lt_one_iff.mp hm]; exact hb⟩

theorem BusyRun.trans {m n : Nat} {s t u : State} (h : BusyRun m s t) (k : BusyRun n t u) :
    BusyRun (m + n) s u where
  ends := by rw [engineRun_add, h.ends, k.ends]
  busy j hj := by
    by_cases hjm : j < m
    · exact h.busy j hjm
    · have hrun : engineRun j s = engineRun (j - m) t := by
        rw [← h.ends, ← engineRun_add, Nat.add_sub_cancel' (Nat.le_of_not_lt hjm)]
      rw [hrun]
      exact k.busy _ (by omega)

/-! How many elements a phase of a running job steps over. -/

/-- TEX_FILL has latched the texture's size (45_bluenoise_texture.md R233). -/
abbrev SizeIsCurrent (s : State) : Prop :=
  s.res.twl = s.regs.texW ∧ s.res.thl = s.regs.texH

theorem phaseCount_congr {s t : State} (hr : t.regs = s.regs) (ph : Phase) :
    phaseCount t ph = phaseCount s ph := by
  cases s; cases t; cases hr; cases ph <;> rfl

/-- A texture phase finds or latches the size that its count is of. -/
theorem startPhase_sizeIsCurrent {ph : Phase} {s : State} (ht : ph ∈ texturePhases)
    (h : ph = .texBlur ∨ ph = .texNorm → SizeIsCurrent s) : SizeIsCurrent (startPhase ph s) := by
  simp only [texturePhases, List.mem_cons, List.not_mem_nil, or_false] at ht
  rcases ht with rfl | rfl | rfl
  · rw [SizeIsCurrent, startPhase_regs]
    exact startTexFill_size s
  · exact h (.inl rfl)
  · exact h (.inr rfl)

/-- The elements of a phase depend on the image size, or on the latched size in a texture phase. -/
theorem phaseElements_of_size {ph : Phase} {s t : State} (hr : t.regs = s.regs)
    (hsize : ph ∈ texturePhases → SameSize s t) : phaseElements ph t = phaseElements ph s := by
  cases ph
  case texFill | texBlur | texNorm =>
    obtain ⟨hw, hh⟩ := hsize (by decide)
    simp only [phaseElements, gridW, gridH, texW, texH, hw, hh]
  all_goals simp only [phaseElements, gridW, gridH, imageW, imageH, hr]

/-- A phase of a running job steps over as many elements as R155 counts when the job is issued. -/
theorem length_phaseElements_startPhase {ph : Phase} {s : State}
    (h : ph = .texBlur ∨ ph = .texNorm → SizeIsCurrent s) :
    (phaseElements ph (startPhase ph s)).length = phaseCount s ph := by
  refine congrArg List.length (phaseElements_of_size (startPhase_regs s ph) fun ht => ?_)
  have hsize := startPhase_sizeIsCurrent ht h
  rwa [SizeIsCurrent, startPhase_regs] at hsize

/-! One phase. -/

section OnePhase

variable {ph : Phase} {pos : Nat} {overlap : Bool} {s : State}

/-- Which elements a scan goes over depends on the registers and on the latched size only. -/
theorem ScansOver.congr {t : State} (hr : t.regs = s.regs) (hres : t.res = s.res)
    {p : Nat × Nat} {l : List (Nat × Nat)} (h : ScansOver ph s p l) : ScansOver ph t p l := by
  induction l generalizing p with
  | nil => exact (scanEnded_congr hr hres ph p.1).trans h
  | cons e r ih =>
    obtain ⟨he, hin, hnot, hrest⟩ := h
    refine ⟨he, ?_, ?_, ?_⟩
    · rwa [phaseElements_congr hr hres]
    · rwa [scanEnded_congr hr hres]
    · rw [nextElement_congr hr hres]
      exact ih hrest

/-- The scan of an entered phase, from a position on, does the elements left there one by one. -/
theorem busyRun_scan {sy sx : BitVec 16} {l : List (Nat × Nat)} (hb : s.status.busy = true)
    (h : ScansOver ph s (sy.toNat, sx.toNat) l) :
    ∃ sy' sx', scanEnded ph s sy'.toNat = true ∧
      BusyRun l.length (withProgress (inPhase ph pos overlap sy sx) s)
        (withProgress (inPhase ph pos overlap sy' sx') (runElements ph l s)) := by
  induction l generalizing s sy sx with
  | nil => exact ⟨sy, sx, h, .refl _⟩
  | cons e r ih =>
    obtain ⟨rfl, hin, hnot, hrest⟩ := h
    obtain ⟨hy, hx⟩ := nextElement_lt hin
    have hstep := engineStep_element (c := inPhase ph pos overlap sy sx) hb rfl hnot
    have hnext : ScansOver ph (stepElement ph sy.toNat sx.toNat s)
        ((BitVec.ofNat 16 (nextElement ph s sy.toNat sx.toNat).1).toNat,
          (BitVec.ofNat 16 (nextElement ph s sy.toNat sx.toNat).2).toNat) r := by
      rw [BitVec.toNat_ofNat, BitVec.toNat_ofNat, Nat.mod_eq_of_lt hy, Nat.mod_eq_of_lt hx]
      exact hrest.congr (stepElement_regs ..) (stepElement_res ..)
    obtain ⟨sy', sx', hend, hrun⟩ := ih (by simpa using hb) hnext
    refine ⟨sy', sx', ?_, ?_⟩
    · rwa [scanEnded_congr (stepElement_regs ..) (stepElement_res ..)] at hend
    · rw [List.length_cons, Nat.add_comm]
      exact (BusyRun.one (s := withProgress _ s) hb hstep).trans hrun

/-- A phase takes a step to enter, one for each element and one to leave, and does what the job
function's phase does. -/
theorem busyRun_phase (hb : s.status.busy = true)
    (hsize : ph = .texBlur ∨ ph = .texNorm → SizeIsCurrent s) :
    ∃ sy sx,
      BusyRun (phaseCount s ph + 2) (withProgress (phaseStart ph pos overlap) s)
        (afterPhase (inPhase ph pos overlap sy sx) (runPhase ph s)) := by
  have henter := engineStep_enter (c := phaseStart ph pos overlap) hb rfl
  have hb1 : (startPhase ph s).status.busy = true := (startPhase_sameJob ph s).busy.trans hb
  obtain ⟨sy, sx, hend, hscan⟩ := busyRun_scan (ph := ph) (pos := pos) (overlap := overlap)
    (sy := 0) (sx := firstColumn ph) hb1 (scansOver_phase ph (startPhase ph s))
  have hleave := engineStep_leave
    (s := runElements ph (phaseElements ph (startPhase ph s)) (startPhase ph s))
    (c := inPhase ph pos overlap sy sx) (by simpa using hb1) rfl
    ((scanEnded_congr (runElements_regs ..) (runElements_res ..) ph _).trans hend)
  refine ⟨sy, sx, ?_⟩
  rw [← length_phaseElements_startPhase hsize, show ∀ n, n + 2 = 1 + (n + 1) by omega]
  exact (BusyRun.one (s := withProgress _ s) hb henter).trans
    (hscan.trans (.one (by simpa using hb1) hleave))

end OnePhase

/-! The whole job. -/

/-- After a texture phase the latched size is current. -/
theorem runPhase_sizeIsCurrent {ph : Phase} {s : State} (ht : ph ∈ texturePhases)
    (h : ph = .texBlur ∨ ph = .texNorm → SizeIsCurrent s) : SizeIsCurrent (runPhase ph s) := by
  have hsize := startPhase_sizeIsCurrent ht h
  rwa [SizeIsCurrent, startPhase_regs, ← runPhase_res, ← runPhase_regs s ph] at hsize

/-- A job at the start of a phase runs to its completion, through the phases left in its list. -/
theorem busyRun_phases (l : List Phase) {a ph : Phase} {pos : Nat} {overlap : Bool} {s : State}
    (hb : s.status.busy = true) (hl : (currentPhases s).drop pos = ph :: l)
    (horder : List.IsChain TextureOrder (a :: ph :: l))
    (hsize : a ∈ texturePhases → SizeIsCurrent s) :
    ∃ c : Progress, c.overlap = overlap ∧
      BusyRun (((ph :: l).map (phaseCount s)).sum + 2 * (ph :: l).length)
        (withProgress (phaseStart ph pos overlap) s)
        (complete (withProgress c (runPhases (ph :: l) s))) := by
  induction l generalizing a ph pos s with
  | nil =>
    obtain ⟨hap, -⟩ := List.isChain_cons_cons.mp horder
    obtain ⟨sy, sx, hrun⟩ := busyRun_phase (pos := pos) (overlap := overlap) hb
      fun h => hsize (hap h)
    have hlast : (currentPhases (runPhase ph s))[pos + 1]? = none := by
      rw [(runPhase_sameJob ph s).currentPhases, ← List.getElem?_drop, hl]
      rfl
    rw [afterPhase_last hlast] at hrun
    exact ⟨inPhase ph pos overlap sy sx, rfl, by simpa using hrun⟩
  | cons ph' r ih =>
    obtain ⟨hap, hrest⟩ := List.isChain_cons_cons.mp horder
    obtain ⟨sy, sx, hrun⟩ := busyRun_phase (pos := pos) (overlap := overlap) hb
      fun h => hsize (hap h)
    have hphases := (runPhase_sameJob ph s).currentPhases
    have hnext : (currentPhases (runPhase ph s))[pos + 1]? = some ph' := by
      rw [hphases, ← List.getElem?_drop, hl]
      rfl
    have hdrop : (currentPhases (runPhase ph s)).drop (pos + 1) = ph' :: r := by
      rw [hphases, ← List.drop_drop, hl]
      rfl
    rw [afterPhase_next hnext] at hrun
    obtain ⟨c, hc, hruns⟩ := ih ((runPhase_sameJob ph s).busy.trans hb) hdrop hrest
      fun ht => runPhase_sizeIsCurrent ht fun h => hsize (hap h)
    have hcounts : phaseCount (runPhase ph s) = phaseCount s :=
      funext (phaseCount_congr (runPhase_regs s ph))
    rw [hcounts] at hruns
    refine ⟨c, hc, ?_⟩
    have hsum : ((ph :: ph' :: r).map (phaseCount s)).sum + 2 * (ph :: ph' :: r).length =
        (phaseCount s ph + 2) +
          (((ph' :: r).map (phaseCount s)).sum + 2 * (ph' :: r).length) := by
      simp only [List.map_cons, List.sum_cons, List.length_cons]
      omega
    rw [hsum]
    exact hrun.trans hruns

/-- An accepted job, stepped by the engine, is busy for as many steps as R155 and log 12 give it, and
then complete with what the job function computes. -/
theorem busyRun_accept {i : Instr} (hi : i ≠ .nop) (s : State) :
    ∃ c : Progress, c.overlap = s.env.overlap ∧
      BusyRun (jobSteps i s) (accept i s)
        (complete (withProgress c (runPhases (phaseList s.cfg i) (accept i s)))) := by
  have hphases : currentPhases (accept i s) = phaseList s.cfg i :=
    currentPhases_of_op (opOfCode_opCode i)
  have horder := phaseList_textureOrder s.cfg i
  have hcons : phaseList s.cfg i =
      (phaseList s.cfg i).headD .idle :: (phaseList s.cfg i).tail := by
    cases i
    case nop => exact absurd rfl hi
    all_goals rfl
  rw [hcons] at hphases horder
  have hrun := busyRun_phases _ (pos := 0) (overlap := s.env.overlap) (s := accept i s) rfl hphases
    horder (fun h => absurd h (by decide))
  rwa [← hcons] at hrun

/-- Settles O50: the accepted states of the two timings differ in the timing only, which no phase
reads. -/
theorem steppedJobEqualsWholeJob : Obligations.SteppedJobEqualsWholeJob := by
  intro i s hi hb hc
  obtain ⟨c, hover, hrun⟩ := busyRun_accept hi { s with env := { s.env with overlap := true } }
  refine ⟨_, _, exec_accepts hi hb hc rfl, exec_completes hi hb hc rfl, hrun.busy, ?_⟩
  have haccept : accept i { s with env := { s.env with overlap := true } } =
      withProgress (phaseStart ((phaseList s.cfg i).headD .idle) 0 true)
        (accept i { s with env := { s.env with overlap := false } }) :=
    rfl
  have hends := hrun.ends
  rw [haccept, runPhases_withProgress] at hends
  refine (congrArg forgetScan hends).trans ?_
  simp [forgetScan, complete, withProgress, hover]

/-! With no input the machine itself runs the engine. -/

theorem startPhase_inputs (ph : Phase) (s : State) :
    (startPhase ph s).env.inputs = s.env.inputs := by
  cases ph
  case random | texFill =>
    simp only [startPhase, startTexFill, reseed]
    split <;> rfl
  all_goals rfl

/-- The engine takes no input from the list (10_state.md R30, log 1). -/
theorem engineStep_inputs (s : State) : (engineStep s).env.inputs = s.env.inputs := by
  rcases engineStep_cases s with ⟨-, h⟩ | ⟨-, -, h⟩ | ⟨-, -, -, h⟩ | ⟨-, -, -, h⟩ <;> rw [h]
  · exact startPhase_inputs s.seq.phase s
  · simp [processElement]
  · rcases leavePhase_cases s with ⟨ph, -, hl⟩ | ⟨-, hl⟩ <;> simp [hl]

theorem core_run_of_no_input {s : State} (h : s.env.inputs = []) (n : Nat) :
    core.run n s = .next (engineRun n s) := by
  induction n generalizing s with
  | zero => rfl
  | succ n ih =>
    have hstep : core.step s = .next (engineStep s) := step_of_no_input h
    simp only [Host.Core.run, hstep]
    exact ih ((engineStep_inputs s).trans h)

/-- Settles O51, by the run of `busyRun_accept`: completion writes the op code that acceptance
took. -/
theorem acceptedJobCompletes : Obligations.AcceptedJobCompletes := by
  intro i s a hi hb ho hin hc h
  rw [exec_accepts hi hb hc ho] at h
  cases h
  obtain ⟨c, -, hrun⟩ := busyRun_accept hi s
  refine ⟨_, core_run_of_no_input (s := accept i s) hin _, ?_⟩
  have hop : (runPhases (phaseList s.cfg i) (accept i s)).seq.curOp = opCode i :=
    (runPhases_sameJob _ _).curOp
  have hends : engineRun (jobElements i s + 2 * (phaseList s.cfg i).length) (accept i s) = _ :=
    hrun.ends
  rw [hends]
  exact ⟨rfl, rfl, hop⟩

end Sys2Proof.Machine
end

section
/-! The grayscale converter: the luminance sum (41_grayscale.md R170, R172), and what phase GRAYCONV
and command GRAY do to each element of each buffer (R171, R173). -/

namespace Sys2Proof.Machine

/-! The luminance sum. -/

theorem gray3Nat_bgr {c : Config} (h : c.channelOrder = .bgr) (e0 e1 e2 : Byte) :
    gray3Nat c e0 e1 e2 =
      (c.cR * e2.toNat + c.cG * e1.toNat + c.cB * e0.toNat + c.bias) / 2 ^ c.shift := by
  simp only [gray3Nat, h, Nat.shiftRight_eq_div_pow]

theorem gray3Nat_rgb {c : Config} (h : c.channelOrder = .rgb) (e0 e1 e2 : Byte) :
    gray3Nat c e0 e1 e2 =
      (c.cR * e0.toNat + c.cG * e1.toNat + c.cB * e2.toNat + c.bias) / 2 ^ c.shift := by
  simp only [gray3Nat, h, Nat.shiftRight_eq_div_pow]

theorem grayWeightsOk_iff (c : Config) :
    c.grayWeightsOk = true ↔
      1 ≤ c.shift ∧ c.cR + c.cG + c.cB = 2 ^ c.shift ∧ c.bias = 2 ^ (c.shift - 1) :=
  decide_eq_true_iff

/-- Legal weights make a rounded mean: what bounds the three channels bounds the shifted sum,
because the bias is less than one unit of the result. -/
theorem weightedSum_between {c : Config} (hc : c.grayWeightsOk = true) {lo hi r g b : Nat}
    (hr : lo ≤ r ∧ r ≤ hi) (hg : lo ≤ g ∧ g ≤ hi) (hb : lo ≤ b ∧ b ≤ hi) :
    lo ≤ (c.cR * r + c.cG * g + c.cB * b + c.bias) / 2 ^ c.shift ∧
      (c.cR * r + c.cG * g + c.cB * b + c.bias) / 2 ^ c.shift ≤ hi := by
  obtain ⟨hshift, hsum, hbias⟩ := (grayWeightsOk_iff c).mp hc
  have hunit : c.bias < 2 ^ c.shift := by
    rw [hbias]
    exact Nat.pow_lt_pow_right (by decide) (by omega)
  have hweigh (v : Nat) : c.cR * v + c.cG * v + c.cB * v = v * 2 ^ c.shift := by
    rw [← hsum]
    ring
  constructor
  · rw [Nat.le_div_iff_mul_le (Nat.two_pow_pos _)]
    calc lo * 2 ^ c.shift = c.cR * lo + c.cG * lo + c.cB * lo := (hweigh lo).symm
      _ ≤ c.cR * r + c.cG * g + c.cB * b := by gcongr <;> omega
      _ ≤ c.cR * r + c.cG * g + c.cB * b + c.bias := Nat.le_add_right _ _
  · rw [← Nat.lt_succ_iff, Nat.div_lt_iff_lt_mul (Nat.two_pow_pos _)]
    calc c.cR * r + c.cG * g + c.cB * b + c.bias
        < c.cR * r + c.cG * g + c.cB * b + 2 ^ c.shift := by omega
      _ ≤ c.cR * hi + c.cG * hi + c.cB * hi + 2 ^ c.shift := by gcongr <;> omega
      _ = (hi + 1) * 2 ^ c.shift := by rw [hweigh]; ring

/-- The same of the luminance function, under either channel order. -/
theorem gray3Nat_between {c : Config} (hc : c.grayWeightsOk = true) {lo hi : Nat} {e0 e1 e2 : Byte}
    (h0 : lo ≤ e0.toNat ∧ e0.toNat ≤ hi) (h1 : lo ≤ e1.toNat ∧ e1.toNat ≤ hi)
    (h2 : lo ≤ e2.toNat ∧ e2.toNat ≤ hi) :
    lo ≤ gray3Nat c e0 e1 e2 ∧ gray3Nat c e0 e1 e2 ≤ hi := by
  cases h : c.channelOrder with
  | bgr =>
    rw [gray3Nat_bgr h]
    exact weightedSum_between hc h2 h1 h0
  | rgb =>
    rw [gray3Nat_rgb h]
    exact weightedSum_between hc h0 h1 h2

theorem gray3Nat_le {c : Config} (hc : c.grayWeightsOk = true) (e0 e1 e2 : Byte) :
    gray3Nat c e0 e1 e2 ≤ 255 :=
  have byte (e : Byte) : 0 ≤ e.toNat ∧ e.toNat ≤ 255 := ⟨Nat.zero_le _, by omega⟩
  (gray3Nat_between hc (byte e0) (byte e1) (byte e2)).2

/-- No bit of the sum is lost when it is stored. -/
theorem gray3_toNat {c : Config} (hc : c.grayWeightsOk = true) (e0 e1 e2 : Byte) :
    (gray3 c e0 e1 e2).toNat = gray3Nat c e0 e1 e2 := by
  rw [gray3, BitVec.toNat_ofNat]
  exact Nat.mod_eq_of_lt (Nat.lt_succ_of_le (gray3Nat_le hc e0 e1 e2))

/-- The mean of three equal channels lies between them. -/
theorem gray3_equal_channels {c : Config} (hc : c.grayWeightsOk = true) (e : Byte) :
    gray3 c e e e = e := by
  have he : e.toNat ≤ e.toNat ∧ e.toNat ≤ e.toNat := ⟨le_rfl, le_rfl⟩
  obtain ⟨hlo, hhi⟩ := gray3Nat_between hc he he he
  apply BitVec.eq_of_toNat_eq
  rw [gray3_toNat hc]
  exact le_antisymm hhi hlo

/-- Settles O21: all that legal weights give follows from `gray3Nat_between`. -/
theorem grayWeightsStayInRange : Obligations.GrayWeightsStayInRange := fun _ e0 e1 e2 =>
  ⟨fun h => gray3Nat_bgr h e0 e1 e2, fun h => gray3Nat_rgb h e0 e1 e2, fun hc =>
    ⟨gray3Nat_le hc e0 e1 e2, gray3_toNat hc e0 e1 e2, gray3_equal_channels hc e0⟩⟩

/-! Phase GRAYCONV, element by element. -/

/-- An element of a filled buffer: the value filled in below the bound, the old one above. -/
theorem readCell_fillCells {w : Nat} (s : State) (b : BufId) (c : Cells w) (g : Nat → BitVec w)
    (n k : Nat) :
    readCell s b (fillCells c g n) k = if k < n then g k else readCell s b c k := by
  rw [readCell, cellGet?_fillCells]
  split <;> rfl

theorem readGray_runPhase_grayconv (s : State) (p : Nat) :
    readGray (runPhase .grayconv s) p =
      if p < imageH s * imageW s then grayValue s p else readGray s p := by
  rw [runPhase_grayconv]
  exact readCell_fillCells s .gray s.bufs.gray (grayValue s) (imageH s * imageW s) p

/-- GRAYCONV leaves every other buffer, and GRAY from index W·H on. -/
theorem peek_runPhase_grayconv {s : State} {b : BufId} {p : Nat}
    (h : b = .gray → imageH s * imageW s ≤ p) : peek (runPhase .grayconv s) b p = peek s b p := by
  cases b
  case gray => simp only [peek, readGray_runPhase_grayconv, if_neg (Nat.not_lt.mpr (h rfl))]
  all_goals
    rw [runPhase_grayconv]
    rfl

/-! Command GRAY. Acceptance and completion touch no buffer and no operand. -/

theorem peek_accept (i : Instr) (s : State) (b : BufId) (p : Nat) :
    peek (accept i s) b p = peek s b p := by
  cases b <;> rfl

theorem peek_complete (s : State) (b : BufId) (p : Nat) : peek (complete s) b p = peek s b p := by
  cases b <;> rfl

/-- Settles O13: the job is the one phase GRAYCONV, between acceptance and completion. -/
theorem grayCommandConvertsImage : Obligations.GrayCommandConvertsImage := by
  intro s hb ho hfit
  refine ⟨complete (runPhase .grayconv (accept .gray s)),
    exec_completes (by decide) hb hfit ho, fun p hp => ?_, fun b p h => ?_, ?_⟩
  · exact (readGray_runPhase_grayconv (accept .gray s) p).trans (if_pos hp)
  · calc peek (complete (runPhase .grayconv (accept .gray s))) b p
        = peek (runPhase .grayconv (accept .gray s)) b p := peek_complete _ b p
      _ = peek (accept .gray s) b p := peek_runPhase_grayconv h
      _ = peek s b p := peek_accept .gray s b p
  · rw [runPhase_grayconv]
    rfl

end Sys2Proof.Machine
end

section
/-! The Bayer ditherer: the threshold ROM (42_bayer.md R175), the comparison on binary images (R179),
and what phase BAYER and command BAYER do to each element of each buffer (R177, R178). -/

namespace Sys2Proof.Machine

/-! The threshold ROM and the comparison. -/

/-- The parameter's cell (R175). -/
theorem bayerRom_zero_one (c : Config) : bayerRom c 0 1 = bayerM01Value c.bayerM01 := rfl

theorem bayerM01Value_toNat (m : BayerM01) :
    (bayerM01Value m).toNat = if m = .v127 then 127 else 128 := by
  cases m <;> rfl

/-- Settles O22: cell [0][1] is the parameter's value, and the other fifteen evaluate. -/
theorem bayerRomIsTheSourceTable : Obligations.BayerRomIsTheSourceTable := by
  intro c
  rw [← bayerM01Value_toNat, ← bayerRom_zero_one]
  rfl

/-- Every threshold that a pixel is compared with is below 255 (R179 (c)): an entry of the table. -/
theorem bayerRom_lt_255 (c : Config) (y x : Nat) : (bayerRom c (y % 4) (x % 4)).toNat < 255 := by
  have htable : ∀ row ∈ (List.range 4).map (fun i => (List.range 4).map fun j =>
      (bayerRom c i j).toNat), ∀ v ∈ row, v < 255 := by
    rw [bayerRomIsTheSourceTable c]
    split <;> decide
  have hrow : ∀ n, n % 4 ∈ List.range 4 := fun n =>
    List.mem_range.mpr (Nat.mod_lt n (by decide))
  exact htable _ (List.mem_map_of_mem (hrow y)) _ (List.mem_map_of_mem (hrow x))

/-- Settles O23: no threshold is below gray value 0, and each is below 255. -/
theorem bayerKeepsBinaryImages : Obligations.BayerKeepsBinaryImages := by
  rintro c g y x (rfl | rfl)
  · exact if_neg (Nat.not_lt_zero _)
  · exact if_pos (bayerRom_lt_255 c y x)

/-! Phase BAYER, element by element. -/

theorem pixelIndex_lt_area {s : State} {y x : Nat} (hy : y < imageH s) (hx : x < imageW s) :
    pixelIndex s y x < imageH s * imageW s :=
  Nat.mul_comm (imageH s) (imageW s) ▸ mul_add_lt_mul hy hx

/-- The row of a pixel, from its linear index. -/
theorem pixelIndex_div {s : State} {x : Nat} (y : Nat) (hx : x < imageW s) :
    pixelIndex s y x / imageW s = y := by
  rw [pixelIndex, Nat.mul_comm, Nat.mul_add_div (Nat.zero_lt_of_lt hx), Nat.div_eq_of_lt hx,
    Nat.add_zero]

/-- The column of a pixel, from its linear index. -/
theorem pixelIndex_mod {s : State} {x : Nat} (y : Nat) (hx : x < imageW s) :
    pixelIndex s y x % imageW s = x :=
  Nat.mul_add_mod_of_lt hx

theorem readGray_runPhase_bayer (s : State) (p : Nat) :
    readGray (runPhase .bayer s) p = readGray s p := by
  rw [runPhase_bayer]
  rfl

theorem readOut0_runPhase_bayer (s : State) (p : Nat) :
    readOut0 (runPhase .bayer s) p =
      if p < imageH s * imageW s then
        bayerOut s.cfg (readGray s p) (p / imageW s) (p % imageW s)
      else readOut0 s p := by
  rw [runPhase_bayer]
  exact readCell_fillCells s .out0 s.bufs.out0 _ (imageH s * imageW s) p

/-- BAYER compares the gray value of pixel (y, x) at row y and column x of the tiled ROM (R177). -/
theorem readOut0_runPhase_bayer_pixel {s : State} {y x : Nat} (hy : y < imageH s)
    (hx : x < imageW s) :
    readOut0 (runPhase .bayer s) (pixelIndex s y x) =
      bayerOut s.cfg (readGray s (pixelIndex s y x)) y x := by
  rw [readOut0_runPhase_bayer, if_pos (pixelIndex_lt_area hy hx), pixelIndex_div y hx,
    pixelIndex_mod y hx]

/-- BAYER leaves every other buffer, and OUT0 from index W·H on. -/
theorem peek_runPhase_bayer {s : State} {b : BufId} {p : Nat}
    (h : b = .out0 → imageH s * imageW s ≤ p) : peek (runPhase .bayer s) b p = peek s b p := by
  cases b
  case out0 => simp only [peek, readOut0_runPhase_bayer, if_neg (Nat.not_lt.mpr (h rfl))]
  all_goals
    rw [runPhase_bayer]
    rfl

/-! The two phases of command BAYER in sequence. -/

section Sequence

variable {s : State}

theorem imageH_runPhase (ph : Phase) : imageH (runPhase ph s) = imageH s := by
  rw [imageH, imageH, runPhase_regs]

theorem imageW_runPhase (ph : Phase) : imageW (runPhase ph s) = imageW s := by
  rw [imageW, imageW, runPhase_regs]

theorem pixelIndex_runPhase (ph : Phase) (y x : Nat) :
    pixelIndex (runPhase ph s) y x = pixelIndex s y x := by
  rw [pixelIndex, pixelIndex, imageW_runPhase]

theorem readGray_grayconv_bayer {p : Nat} (hp : p < imageH s * imageW s) :
    readGray (runPhase .bayer (runPhase .grayconv s)) p = grayValue s p := by
  rw [readGray_runPhase_bayer, readGray_runPhase_grayconv, if_pos hp]

/-- BAYER compares the gray values that GRAYCONV has just written. -/
theorem readOut0_grayconv_bayer {y x : Nat} (hy : y < imageH s) (hx : x < imageW s) :
    readOut0 (runPhase .bayer (runPhase .grayconv s)) (pixelIndex s y x) =
      bayerOut s.cfg (grayValue s (pixelIndex s y x)) y x := by
  have hout := readOut0_runPhase_bayer_pixel (s := runPhase .grayconv s) (y := y) (x := x)
    (by rwa [imageH_runPhase]) (by rwa [imageW_runPhase])
  rwa [pixelIndex_runPhase, readGray_runPhase_grayconv, if_pos (pixelIndex_lt_area hy hx),
    runPhase_cfg] at hout

theorem peek_grayconv_bayer {b : BufId} {p : Nat}
    (h : b = .gray ∨ b = .out0 → imageH s * imageW s ≤ p) :
    peek (runPhase .bayer (runPhase .grayconv s)) b p = peek s b p := by
  have hout : b = .out0 → imageH (runPhase .grayconv s) * imageW (runPhase .grayconv s) ≤ p := by
    simpa only [imageH_runPhase, imageW_runPhase] using fun hb => h (.inr hb)
  rw [peek_runPhase_bayer hout, peek_runPhase_grayconv fun hb => h (.inl hb)]

end Sequence

/-! Command BAYER. -/

theorem readGray_complete (s : State) (p : Nat) : readGray (complete s) p = readGray s p := rfl

theorem readOut0_complete (s : State) (p : Nat) : readOut0 (complete s) p = readOut0 s p := rfl

/-- Settles O14: the job is phase GRAYCONV, then phase BAYER, between acceptance and completion. -/
theorem bayerCommandThresholdsImage : Obligations.BayerCommandThresholdsImage := by
  intro s hb ho hfit
  refine ⟨complete (runPhase .bayer (runPhase .grayconv (accept .bayer s))),
    exec_completes (by decide) hb hfit ho, fun y x hy hx => ⟨?_, ?_⟩, fun b p h => ?_, ?_⟩
  · exact (readGray_complete _ _).trans
      (readGray_grayconv_bayer (s := accept .bayer s) (pixelIndex_lt_area hy hx))
  · exact (readOut0_complete _ _).trans (readOut0_grayconv_bayer (s := accept .bayer s) hy hx)
  · calc peek (complete (runPhase .bayer (runPhase .grayconv (accept .bayer s)))) b p
        = peek (runPhase .bayer (runPhase .grayconv (accept .bayer s))) b p := peek_complete _ b p
      _ = peek (accept .bayer s) b p := peek_grayconv_bayer h
      _ = peek s b p := peek_accept .bayer s b p
  · rw [runPhase_bayer, runPhase_grayconv]
    rfl

end Sys2Proof.Machine
end

section
/-! The random ditherer: the threshold of a draw (43_random.md R191, R193), what a reseed does (R186),
and what phase RANDOM and command RANDOM do to each element of each buffer (R187, R190, R192). -/

namespace Sys2Proof.Machine

/-! The threshold of a draw. -/

/-- The comparison of R191, with the gray value moved to the other side. -/
theorem randomOut_eq_white_iff (n : Nat) (g : Byte) (k : Nat) :
    randomOut n g k = 255 ↔ (255 - g.toNat) * 2 ^ n < 255 * k := by
  have hsplit : (255 - g.toNat) * 2 ^ n + g.toNat * 2 ^ n = 255 * 2 ^ n := by
    rw [← Nat.add_mul, Nat.sub_add_cancel (Nat.le_of_lt_succ g.isLt)]
  have hcompare : randomOut n g k = 255 ↔ 255 * 2 ^ n < g.toNat * 2 ^ n + 255 * k := by
    simp [randomOut]
  rw [hcompare, ← hsplit, Nat.add_comm, Nat.add_lt_add_iff_left]

/-- Settles O24: a strict bound on 255·k is a bound on k above the quotient by 255. -/
theorem randomThresholdPerLevel : Obligations.RandomThresholdPerLevel := by
  refine fun n g k => ⟨?_, fun h => if_neg fun hwhite => h (if_pos hwhite)⟩
  rw [randomOut_eq_white_iff, Nat.succ_le_iff, Nat.div_lt_iff_lt_mul (by decide),
    Nat.mul_comm 255 k]

/-! Reseeding and phase RANDOM, element by element. -/

/-- A reseed latches one seed, shows it in SEED_USED, and counts the sample if it took one (R186). -/
theorem reseed_eq (s : State) :
    reseed s =
      { s with
        res := { s.res with seedUsed := nextSeed s }
        seq := { s.seq with seedL := nextSeed s }
        env := afterReseeds 1 s } := by
  unfold reseed nextSeed afterReseeds
  split <;> rfl

/-- Phase RANDOM as one update of the state, by the seed it latches. -/
theorem runPhase_random_eq (s : State) :
    runPhase .random s =
      { s with
        res := { s.res with seedUsed := nextSeed s }
        seq := { s.seq with seedL := nextSeed s }
        env := afterReseeds 1 s
        bufs :=
          { s.bufs with
            out1 :=
              fillCells s.bufs.out1
                (fun p => randomOut s.cfg.noiseBits (readGray s p) (draw s.cfg (nextSeed s) p))
                (imageH s * imageW s) } } := by
  rw [runPhase_random, reseed_eq]

theorem readGray_runPhase_random (s : State) (p : Nat) :
    readGray (runPhase .random s) p = readGray s p := by
  rw [runPhase_random_eq]
  rfl

theorem readOut1_runPhase_random (s : State) (p : Nat) :
    readOut1 (runPhase .random s) p =
      if p < imageH s * imageW s then
        randomOut s.cfg.noiseBits (readGray s p) (draw s.cfg (nextSeed s) p)
      else readOut1 s p := by
  rw [runPhase_random_eq]
  exact readCell_fillCells s .out1 s.bufs.out1 _ (imageH s * imageW s) p

/-- RANDOM leaves every other buffer, and OUT1 from index W·H on. -/
theorem peek_runPhase_random {s : State} {b : BufId} {p : Nat}
    (h : b = .out1 → imageH s * imageW s ≤ p) : peek (runPhase .random s) b p = peek s b p := by
  cases b
  case out1 => simp only [peek, readOut1_runPhase_random, if_neg (Nat.not_lt.mpr (h rfl))]
  all_goals
    rw [runPhase_random_eq]
    rfl

/-! The two phases of command RANDOM in sequence. -/

section Sequence

variable {s : State}

theorem nextSeed_runPhase_grayconv : nextSeed (runPhase .grayconv s) = nextSeed s := by
  rw [runPhase_grayconv]
  rfl

theorem readGray_grayconv_random {p : Nat} (hp : p < imageH s * imageW s) :
    readGray (runPhase .random (runPhase .grayconv s)) p = grayValue s p := by
  rw [readGray_runPhase_random, readGray_runPhase_grayconv, if_pos hp]

/-- RANDOM adds its draws to the gray values that GRAYCONV has just written. -/
theorem readOut1_grayconv_random {p : Nat} (hp : p < imageH s * imageW s) :
    readOut1 (runPhase .random (runPhase .grayconv s)) p =
      randomOut s.cfg.noiseBits (grayValue s p) (draw s.cfg (nextSeed s) p) := by
  rw [readOut1_runPhase_random, imageH_runPhase, imageW_runPhase, if_pos hp,
    readGray_runPhase_grayconv, if_pos hp, nextSeed_runPhase_grayconv, runPhase_cfg]

theorem peek_grayconv_random {b : BufId} {p : Nat}
    (h : b = .gray ∨ b = .out1 → imageH s * imageW s ≤ p) :
    peek (runPhase .random (runPhase .grayconv s)) b p = peek s b p := by
  have hout : b = .out1 → imageH (runPhase .grayconv s) * imageW (runPhase .grayconv s) ≤ p := by
    simpa only [imageH_runPhase, imageW_runPhase] using fun hb => h (.inr hb)
  rw [peek_runPhase_random hout, peek_runPhase_grayconv fun hb => h (.inl hb)]

end Sequence

/-! Command RANDOM. -/

theorem readOut1_complete (s : State) (p : Nat) : readOut1 (complete s) p = readOut1 s p := rfl

/-- Settles O15: the job is phase GRAYCONV, then phase RANDOM with its reseed, between acceptance and
completion. -/
theorem randomCommandAddsNoise : Obligations.RandomCommandAddsNoise := by
  intro s hb ho hfit
  refine ⟨complete (runPhase .random (runPhase .grayconv (accept .random s))),
    exec_completes (by decide) hb hfit ho, fun p hp => ⟨?_, ?_⟩, fun b p h => ?_, ?_⟩
  · exact (readGray_complete _ _).trans (readGray_grayconv_random (s := accept .random s) hp)
  · exact (readOut1_complete _ _).trans (readOut1_grayconv_random (s := accept .random s) hp)
  · calc peek (complete (runPhase .random (runPhase .grayconv (accept .random s)))) b p
        = peek (runPhase .random (runPhase .grayconv (accept .random s))) b p := peek_complete _ b p
      _ = peek (accept .random s) b p := peek_grayconv_random h
      _ = peek s b p := peek_accept .random s b p
  · rw [runPhase_random_eq, runPhase_grayconv]
    rfl

/-- A completed RANDOM job leaves in OUT1 what the parameters, the gray values and the seed shown in
SEED_USED determine. -/
theorem readOut1_of_exec_random {s t : State} (hb : s.status.busy = false)
    (ho : s.env.overlap = false) (hfit : imageFits s) (ht : exec .random s = .next t) {p : Nat}
    (hp : p < imageH s * imageW s) :
    readOut1 t p = randomOut s.cfg.noiseBits (grayValue s p) (draw s.cfg t.res.seedUsed p) := by
  obtain ⟨u, hu, hpixels, -, hstate⟩ := randomCommandAddsNoise s hb ho hfit
  obtain rfl : t = u := Host.Outcome.next.inj (ht.symm.trans hu)
  have hseed : t.res.seedUsed = nextSeed s := congrArg (fun v : State => v.res.seedUsed) hstate
  rw [hseed]
  exact (hpixels p hp).2

/-- Settles O25: whatever `readOut1_of_exec_random` names is the same in the two jobs. -/
theorem equalSeedsGiveEqualNoise : Obligations.EqualSeedsGiveEqualNoise := by
  intro s s' t t' hcfg hw hh hb ho hfit hb' ho' hgray ht ht' hseed p hp
  have hfit' : imageFits s' := by rwa [imageFits, ← hcfg, ← hw, ← hh]
  have hp' : p < imageH s' * imageW s' := by rwa [← hh, ← hw]
  rw [readOut1_of_exec_random hb ho hfit ht hp, readOut1_of_exec_random hb' ho' hfit' ht' hp',
    hcfg, hgray p hp, hseed]

end Sys2Proof.Machine
end

section
/-! The arithmetic of error diffusion: the threshold, the shares of an error and how large they can
be, and which pixels are visited (44_error_diffusion.md R200, R202, R203, R205, R212). -/

namespace Sys2Proof.Machine

/-! The threshold. -/

theorem threshold_ge128 {c : Config} (h : c.fsThresh = .ge128) (v : Int) :
    threshold c v = if 128 ≤ v then 255 else 0 := by
  rw [threshold, h]

theorem threshold_gt128 {c : Config} (h : c.fsThresh = .gt128) (v : Int) :
    threshold c v = if 128 < v then 255 else 0 := by
  rw [threshold, h]

/-- Settles O26, by the side of the comparison on which the value lies. -/
theorem thresholdAt128 : Obligations.ThresholdAt128 := by
  intro c v
  refine ⟨fun h => ⟨fun hv => ?_, fun hv => ?_⟩, fun h => ⟨fun hv => ?_, fun hv => ?_⟩⟩
  · rw [threshold_ge128 h, if_pos hv]
  · rw [threshold_ge128 h, if_neg (Int.not_le.mpr hv)]
  · rw [threshold_gt128 h, if_pos hv]
  · rw [threshold_gt128 h, if_neg (Int.not_lt.mpr hv)]

/-- Under either comparison 128 is the only value whose side is open. -/
theorem threshold_cases (c : Config) (v : Int) :
    (threshold c v = 0 ∧ v ≤ 128) ∨ (threshold c v = 255 ∧ 128 ≤ v) := by
  rcases hc : c.fsThresh
  · rw [threshold_ge128 hc]
    split <;> omega
  · rw [threshold_gt128 hc]
    split <;> omega

/-- A thresholded value fits an element of OUT2. -/
theorem toNat_ofInt_threshold (c : Config) (v : Int) :
    ((BitVec.ofInt 8 (threshold c v)).toNat : Int) = threshold c v := by
  rcases threshold_cases c v with ⟨h, -⟩ | ⟨h, -⟩ <;> rw [h] <;> rfl

/-! The shares. An error is its sign times its magnitude, so that a share and the exact sixteenths
differ as their magnitudes do. -/

theorem share_rntz {c : Config} (h : c.fsRound = .rntz) (e : Int) (w : Nat) :
    share c e w = signOf e * ((e.natAbs * w + 7) / 16 : Nat) := by
  simp only [share, h, Nat.shiftRight_eq_div_pow, Nat.reducePow]

theorem share_trunc {c : Config} (h : c.fsRound = .trunc) (e : Int) (w : Nat) :
    share c e w = signOf e * (e.natAbs * w / 16 : Nat) := by
  simp only [share, h, Nat.shiftRight_eq_div_pow, Nat.reducePow]

theorem signOf_of_ne_zero {e : Int} (h : e ≠ 0) : signOf e = e.sign := by
  rcases Int.lt_or_gt_of_ne h with h | h
  · rw [signOf, if_pos h, Int.sign_eq_neg_one_of_neg h]
  · rw [signOf, if_neg (Int.not_lt.mpr h.le), Int.sign_eq_one_of_pos h]

/-- `signOf` differs from the sign at 0 only, where a share is 0. -/
theorem signOf_mul_eq_sign_mul {e : Int} {n : Nat} (h : e = 0 → n = 0) :
    signOf e * n = e.sign * n := by
  by_cases he : e = 0
  · rw [h he, Nat.cast_zero, Int.mul_zero, Int.mul_zero]
  · rw [signOf_of_ne_zero he]

theorem natAbs_signOf_mul (e a : Int) : (signOf e * a).natAbs = a.natAbs := by
  rw [signOf]
  split <;> simp

theorem mul_eq_signOf_mul (e : Int) (w : Nat) : e * w = signOf e * (e.natAbs * w : Nat) := by
  have he : signOf e * e.natAbs = e := by
    rw [signOf_mul_eq_sign_mul Int.natAbs_eq_zero.mpr, Int.sign_mul_natAbs]
  rw [Nat.cast_mul, ← Int.mul_assoc, he]

/-- A product with a weight has the sign of the error, unless the weight is 0. -/
theorem signOf_mul_weight_mul (e : Int) {w n : Nat} (h : w = 0 → n = 0) :
    signOf (e * w) * n = signOf e * n := by
  rcases Nat.eq_zero_or_pos w with hw | hw
  · rw [h hw, Nat.cast_zero, Int.mul_zero, Int.mul_zero]
  · have hlt : e * w < 0 ↔ e < 0 := by simp [Int.mul_neg_iff, hw, Int.not_lt.mpr]
    rw [signOf, signOf, if_congr hlt rfl rfl]

/-- How far a multiple of 16 is from the exact product, when both have the error's sign. -/
theorem natAbs_sixteen_mul_sub (e : Int) (w n : Nat) :
    (16 * (signOf e * n) - e * w).natAbs = (16 * (n : Int) - (e.natAbs * w : Nat)).natAbs := by
  rw [mul_eq_signOf_mul e w, show 16 * (signOf e * n) - signOf e * (e.natAbs * w : Nat) =
    signOf e * (16 * (n : Int) - (e.natAbs * w : Nat)) by ring, natAbs_signOf_mul]

theorem natAbs_sixteen_mul (e : Int) (n : Nat) : (16 * (signOf e * n)).natAbs = 16 * n := by
  rw [Int.natAbs_mul, natAbs_signOf_mul]
  rfl

/-- Adding 7 before the division by 16 rounds up exactly past the tie (00_scope.md R12). -/
theorem share_eq_rntz {c : Config} (h : c.fsRound = .rntz) (e : Int) (w : Nat) :
    share c e w = rntz (e * w) 16 := by
  have hround : (e.natAbs * w + 7) / 16 =
      if 2 * (e.natAbs * w % 16) > 16 then e.natAbs * w / 16 + 1 else e.natAbs * w / 16 := by
    split <;> omega
  rw [share_rntz h, rntz, Int.natAbs_mul, Int.natAbs_natCast, ← hround, signOf_mul_weight_mul]
  rintro rfl
  rw [Nat.mul_zero]

theorem share_eq_truncDiv {c : Config} (h : c.fsRound = .trunc) (e : Int) (w : Nat) :
    share c e w = truncDiv (e * w) 16 := by
  rw [share_trunc h, truncDiv, Int.natAbs_mul, Int.natAbs_natCast, signOf_mul_weight_mul]
  rintro rfl
  rw [Nat.mul_zero]

/-- Settles O27: after the two formulas each bound is one on the remainder of |e|·w by 16. -/
theorem shareIsRoundedSixteenths : Obligations.ShareIsRoundedSixteenths := by
  intro c e w
  refine ⟨fun h => ⟨?_, share_eq_rntz h e w, ?_, ?_⟩,
    fun h => ⟨?_, share_eq_truncDiv h e w, ?_, ?_⟩⟩
  · rw [share_rntz h, signOf_mul_eq_sign_mul (by rintro rfl; simp)]
    push_cast
    rfl
  · rw [share_rntz h, natAbs_sixteen_mul_sub]
    omega
  · rw [share_rntz h, natAbs_sixteen_mul_sub, natAbs_sixteen_mul, Int.natAbs_mul,
      Int.natAbs_natCast]
    omega
  · rw [share_trunc h, signOf_mul_eq_sign_mul (by rintro rfl; simp)]
    push_cast
    rfl
  · rw [share_trunc h, natAbs_sixteen_mul_sub]
    omega
  · rw [share_trunc h, natAbs_sixteen_mul, Int.natAbs_mul, Int.natAbs_natCast]
    omega

/-! How large a share and a sum of shares can be. -/

@[simp] theorem share_zero (c : Config) {w : Nat} : share c 0 w = 0 := by
  rw [share]
  split <;> simp

theorem natAbs_share_le (c : Config) (e : Int) (w : Nat) :
    (share c e w).natAbs ≤ (e.natAbs * w + 7) / 16 := by
  rcases h : c.fsRound
  · rw [share_rntz h, natAbs_signOf_mul, Int.natAbs_natCast]
  · rw [share_trunc h, natAbs_signOf_mul, Int.natAbs_natCast]
    omega

/-- One of the four shares that a pixel may receive, from an error of at most 128. -/
theorem natAbs_ite_share_le (c : Config) (P : Prop) [Decidable P] {e : Int} (h : e.natAbs ≤ 128)
    (w : Nat) : (if P then share c e w else 0).natAbs ≤ (128 * w + 7) / 16 := by
  split
  · exact (natAbs_share_le c e w).trans
      (Nat.div_le_div_right (Nat.add_le_add_right (Nat.mul_le_mul_right w h) 7))
  · exact Nat.zero_le _

/-- The four shares of errors of at most 128 are 56 + 24 + 40 + 8 (R212). -/
theorem natAbs_receivedError_le (c : Config) (w h : Nat) {e : Nat → Nat → Int}
    (he : ∀ y x, (e y x).natAbs ≤ 128) (y x : Nat) :
    (receivedError c w h e y x).natAbs ≤ 128 := by
  have hshare (P : Prop) [Decidable P] (y x n : Nat) := natAbs_ite_share_le c P (he y x) n
  have hleft := hshare (1 ≤ x ∧ visited w h y (x - 1)) y (x - 1) 7
  have habove := hshare (1 ≤ y ∧ visited w h (y - 1) x) (y - 1) x 5
  have haboveRight := hshare (1 ≤ y ∧ visited w h (y - 1) (x + 1)) (y - 1) (x + 1) 3
  have haboveLeft := hshare (1 ≤ y ∧ 1 ≤ x ∧ visited w h (y - 1) (x - 1)) (y - 1) (x - 1) 1
  rw [receivedError]
  omega

/-- A value in the range of R212 leaves an error of at most 128 under either threshold. -/
theorem natAbs_sub_threshold_le (c : Config) {v : Int} (hlo : -128 ≤ v) (hhi : v ≤ 383) :
    (v - threshold c v).natAbs ≤ 128 := by
  rcases threshold_cases c v with ⟨h, hv⟩ | ⟨h, hv⟩ <;> omega

/-! Visited pixels and border pixels. -/

theorem visited_iff (w h y x : Nat) :
    visited w h y x = true ↔ y + 2 ≤ h ∧ 1 ≤ x ∧ x + 2 ≤ w := by
  simp [visited, and_assoc]

theorem not_visited_of_small {w h : Nat} (hsmall : w < 3 ∨ h < 2) (y x : Nat) :
    visited w h y x = false := by
  rw [← Bool.not_eq_true, visited_iff]
  omega

/-- Inside the image the border is the complement of the visited set (R205). -/
theorem isBorder_iff {w h y x : Nat} (hy : y < h) (hx : x < w) :
    isBorder w h y x = true ↔ visited w h y x = false := by
  rw [← Bool.not_eq_true, visited_iff]
  simp only [isBorder, Bool.or_eq_true, decide_eq_true_eq]
  omega

/-- Settles O60: the three facts above, over the integers as R200 writes them. -/
theorem visitedPixelsAreRowsAndInnerColumns : Obligations.VisitedPixelsAreRowsAndInnerColumns := by
  refine fun w h y x => ⟨?_, fun hsmall => not_visited_of_small hsmall y x, isBorder_iff⟩
  rw [visited_iff]
  omega

end Sys2Proof.Machine
end

section
/-! Phase FS_SCAN as the recurrence of 44_error_diffusion.md R213: what one visit does to ACC and
OUT2, and, by induction over the visits made so far, that ACC holds each pixel's gray value and the
shares it received, less the error it sent on. Element arithmetic is modulo 2^16; the range of R212,
which the same induction gives, makes it exact. -/

namespace Sys2Proof.Machine

/-! Reads after writes of ACC and OUT2. -/

@[simp] theorem readAcc_writeOut2 (s : State) (i k : Nat) (v : Byte) :
    readAcc (writeOut2 s i v) k = readAcc s k := rfl

@[simp] theorem readOut2_writeAcc (s : State) (i k : Nat) (v : Int) :
    readOut2 (writeAcc s i v) k = readOut2 s k := rfl

@[simp] theorem readOut2_addAcc (s : State) (i k : Nat) (d : Int) :
    readOut2 (addAcc s i d) k = readOut2 s k := rfl

/-- Adding a share is an addition modulo 2^16, whatever the element holds. -/
theorem readAcc_addAcc (s : State) (i k : Nat) (d : Int) :
    readAcc (addAcc s i d) k = readAcc s k + BitVec.ofInt 16 (if k = i then d else 0) := by
  rw [addAcc, readAcc_writeAcc]
  split
  · next h => rw [h, BitVec.ofInt_add, accValue, BitVec.ofInt_toInt]
  · simp

/-- An element that holds an integer of the range of R212 reads as that integer. -/
theorem accValue_of_readAcc {s : State} {p : Nat} {v : Int} (h : readAcc s p = BitVec.ofInt 16 v)
    (hlo : -128 ≤ v) (hhi : v ≤ 383) : accValue s p = v := by
  rw [accValue, h, BitVec.toInt_ofInt_eq_self (by decide)] <;> omega

theorem readAcc_runPhase_fsInit (s : State) {p : Nat} (hp : p < imageH s * imageW s) :
    readAcc (runPhase .fsInit s) p = BitVec.ofInt 16 (readGray s p).toNat := by
  rw [runPhase_fsInit]
  exact (readCell_fillCells s .acc s.bufs.acc _ _ p).trans (if_pos hp)

theorem readOut2_runPhase_fsInit (s : State) {p : Nat} (hp : p < imageH s * imageW s) :
    readOut2 (runPhase .fsInit s) p = readGray s p := by
  rw [runPhase_fsInit]
  exact (readCell_fillCells s .out2 s.bufs.out2 _ _ p).trans (if_pos hp)

/-! One visit. -/

/-- What the visit of pixel p of a w-wide image with error d sends to pixel k (R201). -/
def sentShare (c : Config) (w : Nat) (d : Int) (p k : Nat) : Int :=
  (if k = p + 1 then share c d 7 else 0) + (if k = p + w - 1 then share c d 3 else 0) +
    (if k = p + w then share c d 5 else 0) + (if k = p + w + 1 then share c d 1 else 0)

/-- A visit sends nothing to the pixels up to its own. -/
theorem sentShare_of_le (c : Config) {w : Nat} (hw : 2 ≤ w) (d : Int) {p k : Nat} (h : k ≤ p) :
    sentShare c w d p k = 0 := by
  rw [sentShare, if_neg (by omega), if_neg (by omega), if_neg (by omega), if_neg (by omega)]
  rfl

theorem readAcc_stepFsScan (s : State) {y x p : Nat} (hp : pixelIndex s y x = p) {v : Int}
    (hv : accValue s p = v) (k : Nat) :
    readAcc (stepFsScan y x s) k =
      (if k = p then BitVec.ofInt 16 (threshold s.cfg v) else readAcc s k) +
        BitVec.ofInt 16 (sentShare s.cfg (imageW s) (v - threshold s.cfg v) p k) := by
  simp only [stepFsScan, hp, hv, readAcc_addAcc, readAcc_writeOut2, readAcc_writeAcc, sentShare,
    BitVec.ofInt_add, BitVec.add_assoc]

theorem readOut2_stepFsScan (s : State) {y x p : Nat} (hp : pixelIndex s y x = p) {v : Int}
    (hv : accValue s p = v) (k : Nat) :
    readOut2 (stepFsScan y x s) k =
      if k = p then BitVec.ofInt 8 (threshold s.cfg v) else readOut2 s k := by
  simp only [stepFsScan, hp, hv, readOut2_addAcc, readOut2_writeOut2, readOut2_writeAcc]

/-! One visit in the recurrence: its error joins the errors known so far. -/

theorem pixelIndex_inj {s : State} {y x y' x' : Nat} (hx : x < imageW s) (hx' : x' < imageW s) :
    pixelIndex s y x = pixelIndex s y' x' ↔ y = y' ∧ x = x' := by
  refine ⟨fun h => ⟨?_, ?_⟩, by rintro ⟨rfl, rfl⟩; rfl⟩
  · rw [← pixelIndex_div y hx, h, pixelIndex_div y' hx']
  · rw [← pixelIndex_mod y hx, h, pixelIndex_mod y' hx']

/-- Every linear index of the image is that of a pixel: its row and column lie in the image. -/
theorem div_lt_imageH_and_mod_lt_imageW {s : State} {p : Nat} (hp : p < imageH s * imageW s) :
    p / imageW s < imageH s ∧ p % imageW s < imageW s :=
  ⟨Nat.div_lt_of_lt_mul (Nat.mul_comm _ _ ▸ hp),
    Nat.mod_lt p (Nat.pos_of_mul_pos_left (Nat.zero_lt_of_lt hp))⟩

/-- Raster order is the order of the linear indices (00_scope.md R13). -/
theorem pixelIndex_lt_of_rasterLt {s : State} {y x y' x' : Nat} (hx : x < imageW s)
    (h : RasterLt (y, x) (y', x')) : pixelIndex s y x < pixelIndex s y' x' := by
  rw [pixelIndex, pixelIndex]
  rcases h with hy | ⟨hy, hlt⟩
  · have hrow : (y + 1) * imageW s ≤ y' * imageW s := Nat.mul_le_mul_right _ hy
    rw [Nat.add_mul] at hrow
    omega
  · obtain rfl : y = y' := hy
    exact Nat.add_lt_add_left hlt _

/-- The errors with that of pixel (y, x) set. -/
def setError (e : Nat → Nat → Int) (y x : Nat) (d : Int) : Nat → Nat → Int :=
  fun y' x' => if y' = y ∧ x' = x then d else e y' x'

@[simp] theorem setError_same (e : Nat → Nat → Int) (y x : Nat) (d : Int) :
    setError e y x d y x = d :=
  if_pos ⟨rfl, rfl⟩

theorem setError_other (e : Nat → Nat → Int) (d : Int) {y x y' x' : Nat}
    (h : (y', x') ≠ (y, x)) : setError e y x d y' x' = e y' x' :=
  if_neg fun ⟨hy, hx⟩ => h (by rw [hy, hx])

/-- One term of `receivedError`, from source (a, b) under its guard: setting the error of (y, x)
adds that error's share exactly where (y, x) is the source. -/
theorem ite_share_setError (c : Config) {e : Nat → Nat → Int} {y x : Nat} (d : Int) (w : Nat)
    {a b : Nat} {guard source : Prop} [Decidable guard] [Decidable source] (h0 : e y x = 0)
    (hsource : source ↔ guard ∧ a = y ∧ b = x) :
    (if guard then share c (setError e y x d a b) w else 0) =
      (if guard then share c (e a b) w else 0) + (if source then share c d w else 0) := by
  by_cases hg : guard
  · by_cases hs : a = y ∧ b = x
    · obtain ⟨rfl, rfl⟩ := hs
      simp [hg, hsource, h0]
    · have hab : (a, b) ≠ (y, x) := fun h => hs (Prod.mk.inj h)
      simp [hg, hsource, hs, setError_other e d hab]
  · simp [hg, hsource]

/-- What a pixel has received after a visit more: the four terms of `receivedError` look back along
the four shares that the visit sends. -/
theorem receivedError_setError {s : State} {e : Nat → Nat → Int} {y x y' x' : Nat} (d : Int)
    (hv : visited (imageW s) (imageH s) y x = true) (h0 : e y x = 0) (hx' : x' < imageW s) :
    receivedError s.cfg (imageW s) (imageH s) (setError e y x d) y' x' =
      receivedError s.cfg (imageW s) (imageH s) e y' x' +
        sentShare s.cfg (imageW s) d (pixelIndex s y x) (pixelIndex s y' x') := by
  obtain ⟨hy, hx, hxw⟩ := (visited_iff _ _ y x).mp hv
  have hright : pixelIndex s y x + 1 = pixelIndex s y (x + 1) := rfl
  have hbelow : pixelIndex s y x + imageW s = pixelIndex s (y + 1) x := by
    simp only [pixelIndex, Nat.add_mul]
    omega
  have hbelowLeft : pixelIndex s y x + imageW s - 1 = pixelIndex s (y + 1) (x - 1) := by
    simp only [pixelIndex, Nat.add_mul]
    omega
  have hbelowRight : pixelIndex s y x + imageW s + 1 = pixelIndex s (y + 1) (x + 1) := by
    rw [hbelow]
    rfl
  rw [receivedError, receivedError, sentShare, hright, hbelowRight, hbelowLeft, hbelow,
    ite_share_setError s.cfg d 7 h0 (source := pixelIndex s y' x' = pixelIndex s y (x + 1)),
    ite_share_setError s.cfg d 3 h0 (source := pixelIndex s y' x' = pixelIndex s (y + 1) (x - 1)),
    ite_share_setError s.cfg d 5 h0 (source := pixelIndex s y' x' = pixelIndex s (y + 1) x),
    ite_share_setError s.cfg d 1 h0 (source := pixelIndex s y' x' = pixelIndex s (y + 1) (x + 1))]
  · ring
  all_goals
    rw [pixelIndex_inj hx' (by omega)]
    simp only [visited_iff]
    omega

/-! The scan. -/

theorem receivedError_zero (c : Config) (w h y x : Nat) :
    receivedError c w h (fun _ _ => 0) y x = 0 := by
  simp [receivedError]

/-- The accumulated value v of a pixel: its gray value and the shares it has received, given the
errors sent so far. -/
def accumulated (s : State) (e : Nat → Nat → Int) (y x : Nat) : Int :=
  (readGray s (pixelIndex s y x)).toNat +
    receivedError s.cfg (imageW s) (imageH s) e y x

/-- R212, from the bound on the errors. -/
theorem accumulated_range (s : State) {e : Nat → Nat → Int} (he : ∀ y x, (e y x).natAbs ≤ 128)
    (y x : Nat) : -128 ≤ accumulated s e y x ∧ accumulated s e y x ≤ 383 := by
  have hgray : (readGray s (pixelIndex s y x)).toNat < 256 := BitVec.isLt _
  have hshares := natAbs_receivedError_le s.cfg (imageW s) (imageH s) he y x
  rw [accumulated]
  omega

/-- State t stands after FS_INIT and the visits of the list, which have left the errors e; s is the
state before FS_INIT, with the gray image. A pixel not yet visited has sent no error, so that ACC is
v − e at every pixel. -/
structure Diffused (s : State) (l : List (Nat × Nat)) (e : Nat → Nat → Int) (t : State) : Prop where
  unsent : ∀ y x, (y, x) ∉ l → e y x = 0
  small : ∀ y x, (e y x).natAbs ≤ 128
  acc : ∀ y x, y < imageH s → x < imageW s →
    readAcc t (pixelIndex s y x) = BitVec.ofInt 16 (accumulated s e y x - e y x)
  done : ∀ y x, (y, x) ∈ l →
    e y x = accumulated s e y x - threshold s.cfg (accumulated s e y x) ∧
      readOut2 t (pixelIndex s y x) = BitVec.ofInt 8 (threshold s.cfg (accumulated s e y x))
  gray : ∀ y x, y < imageH s → x < imageW s → (y, x) ∉ l →
    readOut2 t (pixelIndex s y x) = readGray s (pixelIndex s y x)

theorem diffused_fsInit (s : State) : Diffused s [] (fun _ _ => 0) (runPhase .fsInit s) where
  unsent _ _ _ := rfl
  small _ _ := by decide
  acc y x hy hx := by
    rw [readAcc_runPhase_fsInit s (pixelIndex_lt_area hy hx), accumulated, receivedError_zero,
      Int.add_zero, Int.sub_zero]
  done _ _ h := absurd h List.not_mem_nil
  gray y x hy hx _ := readOut2_runPhase_fsInit s (pixelIndex_lt_area hy hx)

section Visit

variable {s t : State} {l : List (Nat × Nat)} {e : Nat → Nat → Int} {y x : Nat}

/-- R212 and R213: every element of ACC is in range, so that it reads as the integer v − e. -/
theorem Diffused.acc_eq_and_range (h : Diffused s l e t) (hy : y < imageH s) (hx : x < imageW s) :
    accValue t (pixelIndex s y x) = accumulated s e y x - e y x ∧
      -128 ≤ accumulated s e y x - e y x ∧ accumulated s e y x - e y x ≤ 383 := by
  obtain ⟨hlo, hhi⟩ := accumulated_range s h.small y x
  have hrange : -128 ≤ accumulated s e y x - e y x ∧ accumulated s e y x - e y x ≤ 383 := by
    by_cases hl : (y, x) ∈ l
    · obtain ⟨herr, -⟩ := h.done y x hl
      rcases threshold_cases s.cfg (accumulated s e y x) with ⟨hthr, -⟩ | ⟨hthr, -⟩ <;> omega
    · rw [h.unsent y x hl]
      omega
  exact ⟨accValue_of_readAcc (h.acc y x hy hx) hrange.1 hrange.2, hrange⟩

/-- ACC holds the accumulated value of a pixel not yet visited. -/
theorem Diffused.accValue_unvisited (h : Diffused s l e t) (hy : y < imageH s) (hx : x < imageW s)
    (hl : (y, x) ∉ l) : accValue t (pixelIndex s y x) = accumulated s e y x := by
  rw [(h.acc_eq_and_range hy hx).1, h.unsent y x hl, Int.sub_zero]

/-- The accumulated values after a visit more. -/
theorem accumulated_setError (d : Int) (hv : visited (imageW s) (imageH s) y x = true)
    (h0 : e y x = 0) {y' x' : Nat} (hx' : x' < imageW s) :
    accumulated s (setError e y x d) y' x' =
      accumulated s e y' x' +
        sentShare s.cfg (imageW s) d (pixelIndex s y x) (pixelIndex s y' x') := by
  rw [accumulated, receivedError_setError d hv h0 hx', ← Int.add_assoc, accumulated]

/-- A visit leaves the accumulated values of its own pixel and of the earlier ones. -/
theorem accumulated_setError_of_le (d : Int) (hv : visited (imageW s) (imageH s) y x = true)
    (h0 : e y x = 0) {y' x' : Nat} (hx' : x' < imageW s)
    (hle : pixelIndex s y' x' ≤ pixelIndex s y x) :
    accumulated s (setError e y x d) y' x' = accumulated s e y' x' := by
  obtain ⟨-, hx, hxw⟩ := (visited_iff _ _ y x).mp hv
  rw [accumulated_setError d hv h0 hx', sentShare_of_le s.cfg (by omega) d hle, Int.add_zero]

/-- The error that the visit of a pixel sends: what the threshold takes away. -/
def visitError (s : State) (e : Nat → Nat → Int) (y x : Nat) : Int :=
  accumulated s e y x - threshold s.cfg (accumulated s e y x)

/-- ACC after a visit: the visited pixel gives up its error, its neighbours receive their shares. -/
theorem Diffused.acc_visit (h : Diffused s l e t) (hc : t.cfg = s.cfg) (hr : t.regs = s.regs)
    (hv : visited (imageW s) (imageH s) y x = true) (hnew : (y, x) ∉ l) {y' x' : Nat}
    (hy' : y' < imageH s) (hx' : x' < imageW s) :
    readAcc (stepFsScan y x t) (pixelIndex s y' x') =
      BitVec.ofInt 16 (accumulated s (setError e y x (visitError s e y x)) y' x' -
        setError e y x (visitError s e y x) y' x') := by
  obtain ⟨hyh, -, hxw⟩ := (visited_iff _ _ y x).mp hv
  have hw : imageW t = imageW s := by rw [imageW, imageW, hr]
  have hp : pixelIndex t y x = pixelIndex s y x := by rw [pixelIndex, pixelIndex, hw]
  have hacc := h.accValue_unvisited (by omega) (by omega) hnew
  rw [readAcc_stepFsScan t hp hacc, hc, hw, ← visitError,
    accumulated_setError _ hv (h.unsent y x hnew) hx',
    if_congr (pixelIndex_inj hx' (by omega)) rfl rfl]
  split
  · next hq =>
    obtain ⟨rfl, rfl⟩ := hq
    rw [setError_same, ← BitVec.ofInt_add, visitError]
    congr 1
    omega
  · next hq =>
    rw [setError_other e _ fun heq => hq (Prod.mk.inj heq), h.acc y' x' hy' hx',
      ← BitVec.ofInt_add]
    congr 1
    omega

/-- The next visit in raster order: no earlier pixel receives from it, so the recurrence stands for
those, and the pixel's own value is final. -/
theorem Diffused.visit (h : Diffused s l e t) (hc : t.cfg = s.cfg) (hr : t.regs = s.regs)
    (hv : visited (imageW s) (imageH s) y x = true)
    (hbefore : ∀ y' x', (y', x') ∈ l → x' < imageW s ∧ RasterLt (y', x') (y, x)) :
    Diffused s (l ++ [(y, x)]) (setError e y x (visitError s e y x)) (stepFsScan y x t) := by
  obtain ⟨hyh, -, hxw⟩ := (visited_iff _ _ y x).mp hv
  have hx : x < imageW s := by omega
  have hnew : (y, x) ∉ l := fun hl => (hbefore y x hl).2.ne rfl
  have hfinal {y' x' : Nat} (hx' : x' < imageW s) (hle : pixelIndex s y' x' ≤ pixelIndex s y x) :=
    accumulated_setError_of_le (visitError s e y x) hv (h.unsent y x hnew) hx' hle
  have hp : pixelIndex t y x = pixelIndex s y x := by
    rw [pixelIndex, pixelIndex, imageW, imageW, hr]
  have hout := readOut2_stepFsScan t hp (h.accValue_unvisited (by omega) hx hnew)
  rw [hc] at hout
  constructor
  case unsent =>
    intro y' x' hn
    obtain ⟨hl, hne⟩ : (y', x') ∉ l ∧ (y', x') ≠ (y, x) := by simpa using hn
    rw [setError_other e _ hne, h.unsent y' x' hl]
  case small =>
    intro y' x'
    obtain ⟨hlo, hhi⟩ := accumulated_range s h.small y x
    rw [setError]
    split
    · exact natAbs_sub_threshold_le s.cfg hlo hhi
    · exact h.small y' x'
  case acc => exact fun y' x' hy' hx' => h.acc_visit hc hr hv hnew hy' hx'
  case done =>
    intro y' x' hl
    rcases List.mem_append.mp hl with hl | hl
    · obtain ⟨hx', hlt⟩ := hbefore y' x' hl
      have hplt := pixelIndex_lt_of_rasterLt hx' hlt
      rw [setError_other e _ hlt.ne, hout, if_neg hplt.ne, hfinal hx' hplt.le]
      exact h.done y' x' hl
    · obtain ⟨rfl, rfl⟩ := Prod.mk.inj (List.mem_singleton.mp hl)
      rw [setError_same, hout, if_pos rfl, hfinal hx le_rfl]
      exact ⟨rfl, rfl⟩
  case gray =>
    intro y' x' hy' hx' hn
    obtain ⟨hl, hne⟩ : (y', x') ∉ l ∧ (y', x') ≠ (y, x) := by simpa using hn
    have hk : pixelIndex s y' x' ≠ pixelIndex s y x := fun hk =>
      hne (Prod.ext_iff.mpr ((pixelIndex_inj hx' hx).mp hk))
    rw [hout, if_neg hk]
    exact h.gray y' x' hy' hx' hl

end Visit

/-- After FS_INIT and any selection of visits in raster order the recurrence holds, for the errors
that those visits have sent. -/
theorem exists_diffused (s : State) {l : List (Nat × Nat)}
    (hl : l.Sublist (visitList (imageW s) (imageH s))) :
    ∃ e, Diffused s l e (runElements .fsScan l (runPhase .fsInit s)) := by
  induction l using List.reverseRecOn with
  | nil => exact ⟨_, diffused_fsInit s⟩
  | append_singleton l q ih =>
    obtain ⟨y, x⟩ := q
    obtain ⟨e, he⟩ := ih ((List.sublist_append_left l _).trans hl)
    have hmem {y' x' : Nat} (hq : (y', x') ∈ l ++ [(y, x)]) :=
      (mem_visitList _ _ y' x').mp (hl.mem hq)
    obtain ⟨-, -, hlt⟩ := List.pairwise_append.mp ((visitList_pairwise _ _).sublist hl)
    rw [runElements_append]
    refine ⟨_, he.visit (by simp) (by simp) ((visited_iff _ _ y x).mpr (hmem (by simp))) ?_⟩
    intro y' x' hq
    obtain ⟨-, -, hx'⟩ := hmem (List.mem_append_left _ hq)
    exact ⟨by omega, hlt _ hq _ (List.mem_singleton_self _)⟩

/-- Settles O28: the first n visits are a selection in raster order, and GRAYCONV keeps the size. -/
theorem accumulatorStaysInRange : Obligations.AccumulatorStaysInRange := by
  intro s n p hp t
  obtain ⟨e, he⟩ := exists_diffused (runPhase .grayconv s)
    (l := (visitList (imageW s) (imageH s)).take n)
    (by rw [imageW_runPhase, imageH_runPhase]; exact List.take_sublist n _)
  obtain ⟨hy, hx⟩ := div_lt_imageH_and_mod_lt_imageW hp
  obtain ⟨hv, hlo, hhi⟩ := he.acc_eq_and_range (by rwa [imageH_runPhase]) (by rwa [imageW_runPhase])
  rw [pixelIndex_runPhase, pixelIndex_div_mod] at hv
  exact ⟨hv.trans_le hhi, hlo.trans_eq hv.symm⟩

end Sys2Proof.Machine
end

section
/-! Command FS: what its four phases leave unchanged, phase FS_BORDER (44_error_diffusion.md R211),
and the whole job pixel by pixel (R213 to R216). -/

namespace Sys2Proof.Machine

/-! The frame. -/

/-- The phases of command FS. -/
def fsPhases : List Phase :=
  [.grayconv, .fsInit, .fsScan, .fsBorder]

theorem phaseList_fs_subset (c : Config) : phaseList c .fs ⊆ fsPhases := by
  rcases hb : c.fsBorder <;> simp [phaseList, borderPhases, hb, fsPhases]

/-- State t differs from s in GRAY, OUT2 and ACC only, and in these inside the image only. -/
structure FsFrame (s t : State) : Prop where
  state : ∃ g o a, t = { s with bufs := { s.bufs with gray := g, out2 := o, acc := a } }
  outside : ∀ b k, (b = .gray ∨ b = .out2 ∨ b = .acc → imageH s * imageW s ≤ k) →
    peek t b k = peek s b k

theorem FsFrame.refl (s : State) : FsFrame s s :=
  ⟨⟨_, _, _, rfl⟩, fun _ _ _ => rfl⟩

section Writes

variable {s t : State} {i : Nat}

theorem peek_writeGray_other {b : BufId} {k : Nat} (v : Byte) (h : b = .gray → k ≠ i) :
    peek (writeGray s i v) b k = peek s b k := by
  cases b
  case gray => simp only [peek, readGray_writeGray, if_neg (h rfl)]
  all_goals rfl

theorem peek_writeOut2_other {b : BufId} {k : Nat} (v : Byte) (h : b = .out2 → k ≠ i) :
    peek (writeOut2 s i v) b k = peek s b k := by
  cases b
  case out2 => simp only [peek, readOut2_writeOut2, if_neg (h rfl)]
  all_goals rfl

theorem peek_writeAcc_other {b : BufId} {k : Nat} (v : Int) (h : b = .acc → k ≠ i) :
    peek (writeAcc s i v) b k = peek s b k := by
  cases b
  case acc => simp only [peek, readAcc_writeAcc, if_neg (h rfl)]
  all_goals rfl

theorem FsFrame.writeGray (h : FsFrame s t) (hi : i < imageH s * imageW s) (v : Byte) :
    FsFrame s (writeGray t i v) := by
  refine ⟨?_, fun b k hk => ?_⟩
  · obtain ⟨g, o, a, rfl⟩ := h.state
    exact ⟨_, o, a, rfl⟩
  · have hne : b = .gray → k ≠ i := fun hb => (hi.trans_le (hk (.inl hb))).ne'
    exact (peek_writeGray_other v hne).trans (h.outside b k hk)

theorem FsFrame.writeOut2 (h : FsFrame s t) (hi : i < imageH s * imageW s) (v : Byte) :
    FsFrame s (writeOut2 t i v) := by
  refine ⟨?_, fun b k hk => ?_⟩
  · obtain ⟨g, o, a, rfl⟩ := h.state
    exact ⟨g, _, a, rfl⟩
  · have hne : b = .out2 → k ≠ i := fun hb => (hi.trans_le (hk (.inr (.inl hb)))).ne'
    exact (peek_writeOut2_other v hne).trans (h.outside b k hk)

theorem FsFrame.writeAcc (h : FsFrame s t) (hi : i < imageH s * imageW s) (v : Int) :
    FsFrame s (writeAcc t i v) := by
  refine ⟨?_, fun b k hk => ?_⟩
  · obtain ⟨g, o, a, rfl⟩ := h.state
    exact ⟨g, o, _, rfl⟩
  · have hne : b = .acc → k ≠ i := fun hb => (hi.trans_le (hk (.inr (.inr hb)))).ne'
    exact (peek_writeAcc_other v hne).trans (h.outside b k hk)

end Writes

section Frame

variable {s t : State} {ph : Phase}

theorem FsFrame.regs (h : FsFrame s t) : t.regs = s.regs := by
  obtain ⟨g, o, a, rfl⟩ := h.state
  rfl

theorem FsFrame.pixelIndex_eq (h : FsFrame s t) (y x : Nat) :
    pixelIndex t y x = pixelIndex s y x := by
  rw [pixelIndex, pixelIndex, imageW, imageW, h.regs]

theorem FsFrame.phaseElements_eq (h : FsFrame s t) (ph : Phase) :
    phaseElements ph t = phaseElements ph s := by
  obtain ⟨g, o, a, rfl⟩ := h.state
  rfl

/-- An element of FS writes inside the image: a visited pixel has a pixel to its right and three
below it (R201). -/
theorem stepElement_fsFrame (h : FsFrame s t) (hph : ph ∈ fsPhases) {y x : Nat}
    (hmem : (y, x) ∈ phaseElements ph s) : FsFrame s (stepElement ph y x t) := by
  obtain ⟨hy, hx⟩ := mem_phaseElements_lt hmem
  have hpix (hy : y < imageH s) (hx : x < imageW s) : pixelIndex t y x < imageH s * imageW s :=
    h.pixelIndex_eq y x ▸ pixelIndex_lt_area hy hx
  simp only [fsPhases, List.mem_cons, List.not_mem_nil, or_false] at hph
  rcases hph with rfl | rfl | rfl | rfl
  · exact h.writeGray (hpix hy hx) _
  · exact (h.writeAcc (hpix hy hx) _).writeOut2 (hpix hy hx) _
  · obtain ⟨hyh, hx1, hxw⟩ := (mem_visitList _ _ y x).mp hmem
    have hbelowRight : pixelIndex s (y + 1) (x + 1) < imageH s * imageW s :=
      pixelIndex_lt_area (by omega) (by omega)
    have hrow : pixelIndex s (y + 1) (x + 1) = pixelIndex t y x + imageW t + 1 := by
      rw [h.pixelIndex_eq, imageW, h.regs, ← imageW, pixelIndex, pixelIndex]
      ring
    rw [hrow] at hbelowRight
    exact (((((h.writeAcc (hpix hy hx) _).writeOut2 (hpix hy hx) _).writeAcc (by omega) _).writeAcc
      (by omega) _).writeAcc (by omega) _).writeAcc hbelowRight _
  · exact h.writeOut2 (hpix hy hx) _

theorem runElements_fsFrame (h : FsFrame s t) (hph : ph ∈ fsPhases) {l : List (Nat × Nat)}
    (hl : l ⊆ phaseElements ph s) : FsFrame s (runElements ph l t) := by
  induction l generalizing t with
  | nil => exact h
  | cons q r ih =>
    obtain ⟨hq, hr⟩ := List.cons_subset.mp hl
    exact ih (stepElement_fsFrame h hph hq) hr

theorem runPhase_fsFrame (h : FsFrame s t) (hph : ph ∈ fsPhases) : FsFrame s (runPhase ph t) := by
  have hrun : runPhase ph t = runElements ph (phaseElements ph s) t := by
    rw [← h.phaseElements_eq]
    simp only [fsPhases, List.mem_cons, List.not_mem_nil, or_false] at hph
    rcases hph with rfl | rfl | rfl | rfl <;> rfl
  rw [hrun]
  exact runElements_fsFrame h hph (List.Subset.refl _)

/-- What an FS job leaves unchanged. -/
theorem runPhases_fsFrame (h : FsFrame s t) {l : List Phase} (hl : l ⊆ fsPhases) :
    FsFrame s (runPhases l t) := by
  induction l generalizing t with
  | nil => exact h
  | cons ph r ih =>
    obtain ⟨hph, hr⟩ := List.cons_subset.mp hl
    exact ih (runPhase_fsFrame h hph) hr

end Frame

/-! Phase FS_BORDER. -/

theorem accValue_runPhase_fsBorder (s : State) (k : Nat) :
    accValue (runPhase .fsBorder s) k = accValue s k :=
  runElements_keeps .fsBorder (P := fun t => accValue t k = accValue s k) _ (fun _ _ _ h => h) rfl

theorem readOut2_stepFsBorder (s : State) (y x k : Nat) :
    readOut2 (stepFsBorder y x s) k =
      if k = pixelIndex s y x then BitVec.ofInt 8 (clamp (accValue s k) 0 255)
      else readOut2 s k := by
  rw [stepFsBorder, readOut2_writeOut2]
  split
  · next h => rw [h]
  · rfl

/-- ACC stands still, so that every border pixel gets its clamped value whatever the order. -/
theorem readOut2_runElements_fsBorder (l : List (Nat × Nat)) (s : State) (k : Nat) :
    readOut2 (runElements .fsBorder l s) k =
      if k ∈ l.map (fun q => pixelIndex s q.1 q.2) then BitVec.ofInt 8 (clamp (accValue s k) 0 255)
      else readOut2 s k := by
  induction l generalizing s with
  | nil => rfl
  | cons q r ih =>
    calc readOut2 (runElements .fsBorder r (stepFsBorder q.1 q.2 s)) k
        = if k ∈ r.map (fun q => pixelIndex s q.1 q.2) then
            BitVec.ofInt 8 (clamp (accValue s k) 0 255)
          else readOut2 (stepFsBorder q.1 q.2 s) k := ih (stepFsBorder q.1 q.2 s)
      _ = _ := by
        rw [readOut2_stepFsBorder, ← ite_or]
        simp only [List.map_cons, List.mem_cons, or_comm]

/-- FS_BORDER writes the clamped value of ACC at the border pixels and nowhere else (R211). -/
theorem readOut2_runPhase_fsBorder (s : State) {y x : Nat} (hy : y < imageH s) (hx : x < imageW s) :
    readOut2 (runPhase .fsBorder s) (pixelIndex s y x) =
      if isBorder (imageW s) (imageH s) y x then
        BitVec.ofInt 8 (clamp (accValue s (pixelIndex s y x)) 0 255)
      else readOut2 s (pixelIndex s y x) := by
  have hmem : pixelIndex s y x ∈
      (borderList (imageW s) (imageH s)).map (fun q => pixelIndex s q.1 q.2) ↔
        isBorder (imageW s) (imageH s) y x = true := by
    rw [List.mem_map]
    constructor
    · rintro ⟨⟨y', x'⟩, hq, heq⟩
      obtain ⟨hin, hborder⟩ := List.mem_filter.mp hq
      obtain ⟨rfl, rfl⟩ := (pixelIndex_inj ((mem_rasterList _ _ y' x').mp hin).2 hx).mp heq
      exact hborder
    · exact fun hborder =>
        ⟨(y, x), List.mem_filter.mpr ⟨(mem_rasterList _ _ y x).mpr ⟨hy, hx⟩, hborder⟩, rfl⟩
  exact (readOut2_runElements_fsBorder _ s _).trans (if_congr hmem rfl rfl)

theorem toNat_ofInt_clamp (v : Int) :
    ((BitVec.ofInt 8 (clamp v 0 255)).toNat : Int) = clamp v 0 255 := by
  have hrange : 0 ≤ clamp v 0 255 ∧ clamp v 0 255 ≤ 255 := by
    rw [clamp]
    omega
  rw [BitVec.toNat_ofInt]
  omega

/-! The border phase of the job, present or not (40_sequencer.md R151). -/

theorem runPhases_borderPhases_raw {c : Config} (h : c.fsBorder = .raw) (s : State) :
    runPhases (borderPhases c) s = s := by
  rw [borderPhases, h]
  rfl

theorem runPhases_borderPhases_accSat {c : Config} (h : c.fsBorder = .accSat) (s : State) :
    runPhases (borderPhases c) s = runPhase .fsBorder s := by
  rw [borderPhases, h]
  rfl

theorem accValue_runPhases_borderPhases (c : Config) (s : State) (k : Nat) :
    accValue (runPhases (borderPhases c) s) k = accValue s k := by
  rcases hb : c.fsBorder
  · rw [runPhases_borderPhases_raw hb]
  · rw [runPhases_borderPhases_accSat hb, accValue_runPhase_fsBorder]

/-- GRAY after the scan of a phase that does not write it. -/
theorem readGray_runElements {ph : Phase} (h : ph ≠ .grayconv) (l : List (Nat × Nat)) (s : State)
    (k : Nat) : readGray (runElements ph l s) k = readGray s k :=
  runElements_keeps ph (P := fun t => readGray t k = readGray s k) l
    (fun y x t ht => by
      rw [← ht, readGray, readCell, stepElement_gray ph y x t h, stepElement_env]
      rfl) rfl

theorem readGray_runPhases_borderPhases (c : Config) (s : State) (k : Nat) :
    readGray (runPhases (borderPhases c) s) k = readGray s k := by
  rcases hb : c.fsBorder
  · rw [runPhases_borderPhases_raw hb]
  · rw [runPhases_borderPhases_accSat hb]
    exact readGray_runElements (by decide) _ s k

theorem readOut2_runPhases_borderPhases_visited (c : Config) {s : State} {y x : Nat}
    (hv : visited (imageW s) (imageH s) y x = true) :
    readOut2 (runPhases (borderPhases c) s) (pixelIndex s y x) =
      readOut2 s (pixelIndex s y x) := by
  obtain ⟨hyh, hx1, hxw⟩ := (visited_iff _ _ y x).mp hv
  have hy : y < imageH s := by omega
  have hx : x < imageW s := by omega
  rcases hb : c.fsBorder
  · rw [runPhases_borderPhases_raw hb]
  · rw [runPhases_borderPhases_accSat hb, readOut2_runPhase_fsBorder s hy hx, if_neg]
    rw [isBorder_iff hy hx, hv]
    decide

/-- The sample of a border pixel at the end of the job: what FS_INIT wrote, or the clamped value. -/
theorem toNat_readOut2_runPhases_borderPhases (c : Config) {s : State} {y x : Nat}
    (hy : y < imageH s) (hx : x < imageW s)
    (hv : visited (imageW s) (imageH s) y x = false) :
    ((readOut2 (runPhases (borderPhases c) s) (pixelIndex s y x)).toNat : Int) =
      match c.fsBorder with
      | .raw => (readOut2 s (pixelIndex s y x)).toNat
      | .accSat => clamp (accValue s (pixelIndex s y x)) 0 255 := by
  rcases hb : c.fsBorder
  · rw [runPhases_borderPhases_raw hb]
  · rw [runPhases_borderPhases_accSat hb, readOut2_runPhase_fsBorder s hy hx,
      if_pos ((isBorder_iff hy hx).mpr hv), toNat_ofInt_clamp]

/-! The whole job. -/

/-- The state in which an FS job ends (R215). -/
def fsJob (s : State) : State :=
  runPhases (phaseList s.cfg .fs) s

/-- The state after FS_SCAN. -/
def fsScanned (s : State) : State :=
  runPhase .fsScan (runPhase .fsInit (runPhase .grayconv s))

theorem fsJob_eq (s : State) : fsJob s = runPhases (borderPhases s.cfg) (fsScanned s) := by
  simp only [fsJob, phaseList, runPhases_append, runPhases_cons, runPhases_nil, fsScanned]

section Job

variable {s : State} {e : Nat → Nat → Int} {y x : Nat}

theorem imageH_fsScanned : imageH (fsScanned s) = imageH s := by
  simp only [fsScanned, imageH_runPhase]

theorem imageW_fsScanned : imageW (fsScanned s) = imageW s := by
  simp only [fsScanned, imageW_runPhase]

theorem pixelIndex_fsScanned (y x : Nat) : pixelIndex (fsScanned s) y x = pixelIndex s y x := by
  simp only [fsScanned, pixelIndex_runPhase]

theorem runPhase_fsScan (s : State) :
    runPhase .fsScan s = runElements .fsScan (visitList (imageW s) (imageH s)) s := rfl

theorem readGray_runPhase_fsScan (s : State) (k : Nat) :
    readGray (runPhase .fsScan s) k = readGray s k :=
  readGray_runElements (by decide) _ s k

theorem readGray_runPhase_fsInit (s : State) (k : Nat) :
    readGray (runPhase .fsInit s) k = readGray s k :=
  readGray_runElements (by decide) _ s k

/-- The recurrence at the end of FS_SCAN, every visit made. -/
theorem exists_diffused_fsScanned (s : State) :
    ∃ e, Diffused (runPhase .grayconv s) (visitList (imageW s) (imageH s)) e (fsScanned s) := by
  have h := exists_diffused (runPhase .grayconv s) (List.Sublist.refl _)
  rw [imageW_runPhase, imageH_runPhase] at h
  rwa [fsScanned, runPhase_fsScan, imageW_runPhase, imageH_runPhase, imageW_runPhase,
    imageH_runPhase]

theorem readGray_fsJob {p : Nat} (hp : p < imageH s * imageW s) :
    readGray (fsJob s) p = grayValue s p := by
  rw [fsJob_eq, readGray_runPhases_borderPhases, fsScanned, readGray_runPhase_fsScan,
    readGray_runPhase_fsInit, readGray_runPhase_grayconv, if_pos hp]

theorem accValue_fsJob (k : Nat) : accValue (fsJob s) k = accValue (fsScanned s) k := by
  rw [fsJob_eq, accValue_runPhases_borderPhases]

/-- The accumulated value as R213 writes it, from the gray value of the image in IN. -/
theorem accumulated_grayconv (e : Nat → Nat → Int) (hy : y < imageH s) (hx : x < imageW s) :
    accumulated (runPhase .grayconv s) e y x =
      (grayValue s (pixelIndex s y x)).toNat +
        receivedError s.cfg (imageW s) (imageH s) e y x := by
  rw [accumulated, imageW_runPhase, imageH_runPhase, pixelIndex_runPhase, runPhase_cfg,
    readGray_runPhase_grayconv, if_pos (pixelIndex_lt_area hy hx)]

/-- A visited pixel ends thresholded, in ACC and in OUT2 (R208, R210). -/
theorem fsJob_visited
    (he : Diffused (runPhase .grayconv s) (visitList (imageW s) (imageH s)) e (fsScanned s))
    (hy : y < imageH s) (hx : x < imageW s) (hv : visited (imageW s) (imageH s) y x = true)
    {v : Int} (hacc : accumulated (runPhase .grayconv s) e y x = v) :
    e y x = v - threshold s.cfg v ∧ accValue (fsJob s) (pixelIndex s y x) = threshold s.cfg v ∧
      ((readOut2 (fsJob s) (pixelIndex s y x)).toNat : Int) = threshold s.cfg v := by
  have hl := (mem_visitList _ _ y x).mpr ((visited_iff _ _ y x).mp hv)
  obtain ⟨herr, hout⟩ := he.done y x hl
  obtain ⟨hval, -⟩ := he.acc_eq_and_range (y := y) (x := x) (by rwa [imageH_runPhase])
    (by rwa [imageW_runPhase])
  have hborder := readOut2_runPhases_borderPhases_visited s.cfg (s := fsScanned s) (y := y) (x := x)
    (by rw [imageW_fsScanned, imageH_fsScanned, hv])
  rw [pixelIndex_runPhase, runPhase_cfg, hacc] at hout
  rw [pixelIndex_runPhase, hacc] at hval
  rw [runPhase_cfg, hacc] at herr
  rw [pixelIndex_fsScanned] at hborder
  refine ⟨herr, ?_, ?_⟩
  · rw [accValue_fsJob, hval, herr, Int.sub_sub_self]
  · rw [fsJob_eq, hborder, hout, toNat_ofInt_threshold]

/-- A border pixel keeps its accumulated value in ACC (R205, R211). -/
theorem fsJob_border
    (he : Diffused (runPhase .grayconv s) (visitList (imageW s) (imageH s)) e (fsScanned s))
    (hy : y < imageH s) (hx : x < imageW s) (hv : visited (imageW s) (imageH s) y x = false)
    {v : Int} (hacc : accumulated (runPhase .grayconv s) e y x = v) :
    accValue (fsJob s) (pixelIndex s y x) = v ∧
      ((readOut2 (fsJob s) (pixelIndex s y x)).toNat : Int) =
        match s.cfg.fsBorder with
        | .raw => (grayValue s (pixelIndex s y x)).toNat
        | .accSat => clamp v 0 255 := by
  have hl : (y, x) ∉ visitList (imageW s) (imageH s) := by
    rw [mem_visitList, ← visited_iff, hv]
    decide
  have hval := he.accValue_unvisited (by rwa [imageH_runPhase]) (by rwa [imageW_runPhase]) hl
  have hgray := he.gray y x (by rwa [imageH_runPhase]) (by rwa [imageW_runPhase]) hl
  have hborder := toNat_readOut2_runPhases_borderPhases s.cfg (s := fsScanned s) (y := y) (x := x)
    (by rwa [imageH_fsScanned]) (by rwa [imageW_fsScanned])
    (by rw [imageW_fsScanned, imageH_fsScanned, hv])
  rw [pixelIndex_runPhase, hacc] at hval
  rw [pixelIndex_runPhase, readGray_runPhase_grayconv, if_pos (pixelIndex_lt_area hy hx)] at hgray
  rw [pixelIndex_fsScanned, hgray, hval] at hborder
  rw [accValue_fsJob, fsJob_eq]
  exact ⟨hval, hborder⟩

end Job

theorem accValue_complete (s : State) (k : Nat) : accValue (complete s) k = accValue s k := rfl

theorem readOut2_complete (s : State) (k : Nat) : readOut2 (complete s) k = readOut2 s k := rfl

/-- An FS job changes GRAY, OUT2 and ACC inside the image only. -/
theorem fsJob_frame (s : State) : FsFrame s (fsJob s) :=
  runPhases_fsFrame (FsFrame.refl s) (phaseList_fs_subset s.cfg)

/-- Settles O16: the job is fsJob, between acceptance and completion, and the errors are those that
its visits have sent. -/
theorem fsCommandIsErrorDiffusion : Obligations.FsCommandIsErrorDiffusion := by
  intro s hb ho hfit
  have hframe := fsJob_frame (accept .fs s)
  obtain ⟨e, he⟩ := exists_diffused_fsScanned (accept .fs s)
  refine ⟨complete (fsJob (accept .fs s)), exec_completes (by decide) hb hfit ho,
    ⟨e, fun y x hy hx => ?_⟩, fun b p h => ?_, ?_⟩
  · have hacc := accumulated_grayconv (s := accept .fs s) e hy hx
    simp only [readGray_complete, accValue_complete, readOut2_complete]
    exact ⟨readGray_fsJob (s := accept .fs s) (pixelIndex_lt_area hy hx),
      fun hv => fsJob_visited he hy hx hv hacc, fun hv => fsJob_border he hy hx hv hacc⟩
  · calc peek (complete (fsJob (accept .fs s))) b p
        = peek (fsJob (accept .fs s)) b p := peek_complete _ b p
      _ = peek (accept .fs s) b p := hframe.outside b p h
      _ = peek s b p := peek_accept .fs s b p
  · obtain ⟨g, o, a, hstate⟩ := hframe.state
    rw [hstate]
    rfl

/-! The output image. -/

/-- Where no pixel is visited no pixel receives anything (R214). -/
theorem receivedError_of_small (c : Config) {w h : Nat} (hsmall : w < 3 ∨ h < 2)
    (e : Nat → Nat → Int) (y x : Nat) : receivedError c w h e y x = 0 := by
  simp [receivedError, not_visited_of_small hsmall]

/-- Settles O29, from O16: a threshold is 0 or 255, and the border is what is not visited. -/
theorem fsBinaryInsideGrayAtBorder : Obligations.FsBinaryInsideGrayAtBorder := by
  intro s hb ho hfit hraw
  obtain ⟨t, ht, ⟨e, hpixels⟩, -⟩ := fsCommandIsErrorDiffusion s hb ho hfit
  have hgray {y x : Nat} (hy : y < imageH s) (hx : x < imageW s)
      (hv : visited (imageW s) (imageH s) y x = false) :
      readOut2 t (y * imageW s + x) = grayValue s (y * imageW s + x) := by
    obtain ⟨-, -, hborder⟩ := hpixels y x hy hx
    obtain ⟨-, hout⟩ := hborder hv
    rw [hraw] at hout
    exact BitVec.eq_of_toNat_eq (Int.ofNat.inj hout)
  refine ⟨t, ht, fun y x hy hx => ⟨fun hv => ?_, fun hv => ?_⟩, fun hsmall p hp => ?_⟩
  · obtain ⟨-, hvisited, -⟩ := hpixels y x hy hx
    rw [← Bool.not_eq_true, isBorder_iff hy hx, Bool.not_eq_false] at hv
    obtain ⟨-, -, hout⟩ := hvisited hv
    rcases threshold_cases s.cfg _ with ⟨hthr, -⟩ | ⟨hthr, -⟩ <;> rw [hthr] at hout
    · exact .inl (BitVec.eq_of_toNat_eq (Int.ofNat.inj hout))
    · exact .inr (BitVec.eq_of_toNat_eq (Int.ofNat.inj hout))
  · exact hgray hy hx ((isBorder_iff hy hx).mp hv)
  · obtain ⟨hy, hx⟩ := div_lt_imageH_and_mod_lt_imageW hp
    have hv := not_visited_of_small hsmall (p / imageW s) (p % imageW s)
    obtain ⟨-, -, hborder⟩ := hpixels _ _ hy hx
    obtain ⟨hacc, -⟩ := hborder hv
    rw [receivedError_of_small s.cfg hsmall, Int.add_zero] at hacc
    have hout := hgray hy hx hv
    rw [Nat.div_add_mod'] at hacc hout
    exact ⟨hout, hacc⟩

end Sys2Proof.Machine
end

section
/-! The blur of the blue-noise texture generator: the border rule (45_bluenoise_texture.md R232) and
the width of a blurred value (R237). -/

namespace Sys2Proof.Machine

/-! The border rule. -/

/-- The residue of −i: the distance of i's residue from the period, unless both are 0. -/
theorem neg_emod_eq_ite {d : Int} (hd : 0 < d) (i : Int) :
    -i % d = if i % d = 0 then 0 else d - i % d := by
  simp only [Int.neg_emod, Int.dvd_iff_emod_eq_zero, Int.natAbs_of_nonneg hd.le]

/-- The border rule without its comparison: modulo the period 2(n−1), the smaller of the residues of
i and −i. -/
theorem reflIndex_eq_min {n : Nat} (hn : 2 ≤ n) (i : Int) :
    (reflIndex i n : Int) = min (i % (2 * ((n : Int) - 1))) (-i % (2 * ((n : Int) - 1))) := by
  have hperiod : 0 < 2 * ((n : Int) - 1) := by omega
  have hlo := Int.emod_nonneg i hperiod.ne'
  have hhi := Int.emod_lt_of_pos i hperiod
  rw [neg_emod_eq_ite hperiod, reflIndex, if_neg (by omega)]
  generalize i % (2 * ((n : Int) - 1)) = m at hlo hhi ⊢
  dsimp only
  split <;> split <;> omega

theorem reflIndex_one (i : Int) : reflIndex i 1 = 0 :=
  if_pos rfl

/-- Two indices with the same residues, in either order, are mirrored to the same cell. -/
theorem reflIndex_congr {n : Nat} {i j : Int}
    (h : 2 ≤ n → i % (2 * ((n : Int) - 1)) = -j % (2 * ((n : Int) - 1)) ∧
      -i % (2 * ((n : Int) - 1)) = j % (2 * ((n : Int) - 1)))
    (hn : 1 ≤ n) : reflIndex i n = reflIndex j n := by
  rcases hn.eq_or_lt with rfl | hn
  · rw [reflIndex_one, reflIndex_one]
  · obtain ⟨hij, hji⟩ := h hn
    have hmin : (reflIndex i n : Int) = reflIndex j n := by
      rw [reflIndex_eq_min hn, reflIndex_eq_min hn, hij, hji, min_comm]
    exact_mod_cast hmin

theorem reflIndex_neg {n : Nat} (hn : 1 ≤ n) (i : Int) : reflIndex (-i) n = reflIndex i n :=
  reflIndex_congr (fun _ => ⟨rfl, by rw [neg_neg]⟩) hn

theorem reflIndex_far_edge {n : Nat} (hn : 1 ≤ n) (i : Int) :
    reflIndex (2 * ((n : Int) - 1) - i) n = reflIndex i n :=
  reflIndex_congr
    (fun _ => ⟨Int.sub_emod_left _ _, by rw [neg_sub, Int.sub_emod_right]⟩) hn

theorem reflIndex_lt {n : Nat} (hn : 1 ≤ n) (i : Int) : reflIndex i n < n := by
  rcases hn.eq_or_lt with rfl | hn
  · simp [reflIndex_one]
  · rw [reflIndex, if_neg (by omega)]
    dsimp only
    split <;> omega

/-- A tap inside the texture takes its own cell. -/
theorem reflIndex_of_inside {n : Nat} {i : Int} (h0 : 0 ≤ i) (hi : i < n) :
    (reflIndex i n : Int) = i := by
  rw [reflIndex]
  split
  · omega
  · rw [Int.emod_eq_of_lt h0 (by omega)]
    dsimp only
    split <;> omega

/-- Settles O30: the two mirror laws are the symmetry of `reflIndex_eq_min`. -/
theorem reflectionStaysInside : Obligations.ReflectionStaysInside :=
  fun i _ hn =>
    ⟨reflIndex_lt hn i, reflIndex_of_inside, reflIndex_neg hn i, reflIndex_far_edge hn i,
      fun h => h ▸ reflIndex_one i⟩

/-! The width of a blurred value. -/

theorem readTexRaw_lt (s : State) (i : Nat) : (readTexRaw s i).toNat < 2 ^ s.cfg.noiseBits :=
  texRawElement_lt s.cfg _

theorem kernelWeight_le (s : State) (d : Nat) : kernelWeight s d ≤ 2 ^ 16 - 1 := by
  unfold kernelWeight
  split
  all_goals omega

theorem blurTerm_le (s : State) (ty tx i j : Nat) :
    blurTerm s ty tx i j ≤ (2 ^ 16 - 1) * (2 ^ 16 - 1) * (2 ^ 24 - 1) :=
  Nat.mul_le_mul (Nat.mul_le_mul (kernelWeight_le s _) (kernelWeight_le s _))
    (Nat.le_sub_one_of_lt (readTexRaw s _).isLt)

/-- A sum over the taps of one row or one column of the kernel: at most seven. -/
theorem sum_taps_le (s : State) {f : Nat → Nat} {m : Nat} (h : ∀ i, f i ≤ m) :
    ((List.range (2 * kernelRadius s + 1)).map f).sum ≤ 7 * m := by
  have hr : kernelRadius s ≤ 3 := Nat.le_of_lt_succ s.regs.krad.isLt
  calc ((List.range (2 * kernelRadius s + 1)).map f).sum
      ≤ ((List.range (2 * kernelRadius s + 1)).map f).length • m :=
        List.sum_le_card_nsmul _ m (by simpa using fun i _ => h i)
    _ = (2 * kernelRadius s + 1) * m := by simp
    _ ≤ 7 * m := Nat.mul_le_mul_right m (by omega)

/-- The bound of R237 (c): seven times seven taps, two 16-bit weights and 24 bits of noise. -/
theorem blurAt_lt (s : State) (ty tx : Nat) : blurAt s ty tx < 2 ^ 64 :=
  calc blurAt s ty tx ≤ 7 * (7 * ((2 ^ 16 - 1) * (2 ^ 16 - 1) * (2 ^ 24 - 1))) :=
        sum_taps_le s fun i => sum_taps_le s fun j => blurTerm_le s ty tx i j
    _ < 2 ^ 64 := by norm_num

/-- Settles O31: the bounds on an element and on a blurred value. -/
theorem blurFitsIn64Bits : Obligations.BlurFitsIn64Bits :=
  ⟨readTexRaw_lt, blurAt_lt⟩

end Sys2Proof.Machine
end

section
/-! Command GEN_TEX (45_bluenoise_texture.md R238): what its phases TEX_FILL, TEX_BLUR and TEX_NORM
do to each element of each buffer (R233 to R236), and that the texture is normalised (R237). -/

namespace Sys2Proof.Machine

/-! Phase TEX_FILL. -/

/-- TEX_FILL latches the size and one seed, and writes the draws of that seed (R233). -/
theorem runPhase_texFill_eq (s : State) :
    runPhase .texFill s =
      { s with
        status := { s.status with texValid := false }
        res :=
          { s.res with seedUsed := nextSeed s, twl := s.regs.texW, thl := s.regs.texH }
        seq := { s.seq with seedL := nextSeed s }
        env := afterReseeds 1 s
        bufs :=
          { s.bufs with
            texRaw :=
              fillCells s.bufs.texRaw (fun t => texRawElement s.cfg (draw s.cfg (nextSeed s) t))
                (s.regs.texH.toNat * s.regs.texW.toNat) } } := by
  rw [runPhase_texFill, runElements_texFill, startTexFill, reseed_eq]
  rfl

theorem texW_runPhase_texFill (s : State) : texW (runPhase .texFill s) = s.regs.texW.toNat := by
  rw [runPhase_texFill_eq]
  rfl

theorem texH_runPhase_texFill (s : State) : texH (runPhase .texFill s) = s.regs.texH.toNat := by
  rw [runPhase_texFill_eq]
  rfl

/-- A legal NOISE_BITS keeps every bit of a draw (R7, R190). -/
theorem texRawElement_draw_toNat {c : Config} (hc : c.noiseBitsOk = true) (seed : Word) (i : Nat) :
    (texRawElement c (draw c seed i)).toNat = draw c seed i := by
  have hbits : c.noiseBits ≤ 24 := (of_decide_eq_true hc).2
  have hdraw : draw c seed i < 2 ^ c.noiseBits := Nat.mod_lt _ (Nat.two_pow_pos _)
  rw [texRawElement_toNat, Nat.mod_eq_of_lt hdraw,
    Nat.mod_eq_of_lt (hdraw.trans_le (Nat.pow_le_pow_right (by decide) hbits))]

theorem readTexRaw_runPhase_texFill {s : State} (hc : s.cfg.noiseBitsOk = true) {t : Nat}
    (ht : t < s.regs.texH.toNat * s.regs.texW.toNat) :
    (readTexRaw (runPhase .texFill s) t).toNat = draw s.cfg (nextSeed s) t := by
  rw [runPhase_texFill_eq, readTexRaw]
  dsimp only
  rw [readCell_fillCells, if_pos ht, texRawElement_idem]
  exact texRawElement_draw_toNat hc _ t

/-- TEX_FILL leaves every other buffer, and TEXRAW from index TW·TH on. -/
theorem peek_runPhase_texFill {s : State} {b : BufId} {p : Nat}
    (h : b = .texRaw → s.regs.texH.toNat * s.regs.texW.toNat ≤ p) :
    peek (runPhase .texFill s) b p = peek s b p := by
  rw [runPhase_texFill_eq]
  cases b
  case texRaw =>
    simp only [peek, readTexRaw, readCell_fillCells, if_neg (Nat.not_lt.mpr (h rfl))]
    rfl
  all_goals rfl

/-! The blur against its reference. -/

/-- The blur of the elements of TEXRAW is the reference sum over them (R234). -/
theorem blurAt_eq_blurRef (s : State) (ty tx : Nat) :
    blurAt s ty tx =
      blurRef (fun i => (readTexRaw s i).toNat) (kernelWeight s) (kernelRadius s) (texW s) (texH s)
        ty tx := by
  simp only [blurAt, blurTerm, blurRef, List.pure_def, List.bind_eq_flatMap,
    ← List.map_eq_flatMap, List.map_map, Function.comp_def]

/-- The reference sum reads the draws of the texture's own cells only (R232). -/
theorem blurRef_congr {d d' : Nat → Nat} {tw th : Nat} (htw : 1 ≤ tw) (hth : 1 ≤ th)
    (h : ∀ i, i < th * tw → d i = d' i) (w : Nat → Nat) (r ty tx : Nat) :
    blurRef d w r tw th ty tx = blurRef d' w r tw th ty tx := by
  have hcell (i j : Int) : d (reflIndex i th * tw + reflIndex j tw) =
      d' (reflIndex i th * tw + reflIndex j tw) :=
    h _ (Nat.mul_comm th tw ▸ mul_add_lt_mul (reflIndex_lt hth i) (reflIndex_lt htw j))
  simp only [blurRef, hcell]

/-! Phase TEX_BLUR. -/

/-- The blurred value of the cell with linear index t (R230, R234). -/
def cellBlur (s : State) (t : Nat) : Nat :=
  blurAt s (t / texW s) (t % texW s)

theorem cellBlur_toNat (s : State) (t : Nat) :
    (BitVec.ofNat 64 (cellBlur s t)).toNat = cellBlur s t := by
  rw [BitVec.toNat_ofNat]
  exact Nat.mod_eq_of_lt (blurAt_lt s _ _)

/-- The first n values of b lie between lo and hi and reach both (R235). -/
structure Extremes (b : Nat → Nat) (n lo hi : Nat) : Prop where
  between : ∀ i, i < n → lo ≤ b i ∧ b i ≤ hi
  least : ∃ i, i < n ∧ b i = lo
  greatest : ∃ i, i < n ∧ b i = hi

theorem Extremes.first (b : Nat → Nat) : Extremes b 1 (b 0) (b 0) where
  between i hi := by
    obtain rfl : i = 0 := Nat.lt_one_iff.mp hi
    exact ⟨le_rfl, le_rfl⟩
  least := ⟨0, Nat.one_pos, rfl⟩
  greatest := ⟨0, Nat.one_pos, rfl⟩

/-- One more value. -/
theorem Extremes.next {b : Nat → Nat} {n lo hi : Nat} (h : Extremes b n lo hi) :
    Extremes b (n + 1) (if b n < lo then b n else lo) (if hi < b n then b n else hi) where
  between i hlt := by
    rcases Nat.lt_succ_iff_lt_or_eq.mp hlt with hlt | rfl
    · have hold := h.between i hlt
      constructor <;> split <;> omega
    · constructor <;> split <;> omega
  least := by
    obtain ⟨i, hlt, hb⟩ := h.least
    split
    · exact ⟨n, n.lt_succ_self, rfl⟩
    · exact ⟨i, hlt.trans n.lt_succ_self, hb⟩
  greatest := by
    obtain ⟨i, hlt, hb⟩ := h.greatest
    split
    · exact ⟨n, n.lt_succ_self, rfl⟩
    · exact ⟨i, hlt.trans n.lt_succ_self, hb⟩

/-- BMIN and BMAX are the extremes of the values noted so far (log 13). -/
theorem exists_noteExtremes {b : Nat → Nat} {n : Nat} {v : BitVec 64} (hv : v.toNat = b n)
    {s : State} (h : 0 < n → Extremes b n s.seq.bmin.toNat s.seq.bmax.toNat) :
    ∃ lo hi : BitVec 64, Extremes b (n + 1) lo.toNat hi.toNat ∧
      noteExtremes n v s = { s with seq := { s.seq with bmin := lo, bmax := hi } } := by
  rcases Nat.eq_zero_or_pos n with rfl | hn
  · exact ⟨v, v, hv ▸ Extremes.first b, if_pos rfl⟩
  · refine ⟨_, _, ?_, if_neg hn.ne'⟩
    simpa only [apply_ite BitVec.toNat, hv] using (h hn).next

/-- The state after n elements of TEX_BLUR, given the BMIN and BMAX they leave. -/
def texBlurred (s : State) (n : Nat) (lo hi : BitVec 64) : State :=
  { s with
    bufs :=
      { s.bufs with
        tex := fillCells s.bufs.tex (fun t => BitVec.ofNat 64 (cellBlur s t)) n }
    seq := { s.seq with bmin := lo, bmax := hi } }

/-- One element of TEX_BLUR: blurring reads nothing that the phase writes (R234). -/
theorem stepElement_texBlurred (s : State) (n : Nat) (lo hi : BitVec 64) :
    stepElement .texBlur (n / texW s) (n % texW s) (texBlurred s n lo hi) =
      noteExtremes n (BitVec.ofNat 64 (cellBlur s n)) (texBlurred s (n + 1) lo hi) := by
  have hcell : cellIndex (texBlurred s n lo hi) (n / texW s) (n % texW s) = n :=
    cellIndex_div_mod s n
  simp only [stepElement, stepTexBlur, hcell]
  rfl

theorem exists_texBlurred (s : State) (n : Nat) :
    ∃ lo hi : BitVec 64, (0 < n → Extremes (cellBlur s) n lo.toNat hi.toNat) ∧
      runElements .texBlur ((List.range n).map fun t => (t / texW s, t % texW s)) s =
        texBlurred s n lo hi := by
  induction n with
  | zero => exact ⟨s.seq.bmin, s.seq.bmax, fun h => absurd h (lt_irrefl 0), rfl⟩
  | succ n ih =>
    obtain ⟨lo, hi, hextremes, hrun⟩ := ih
    obtain ⟨lo', hi', hextremes', hnote⟩ :=
      exists_noteExtremes (s := texBlurred s (n + 1) lo hi) (cellBlur_toNat s n) hextremes
    refine ⟨lo', hi', fun _ => hextremes', ?_⟩
    rw [List.range_succ, List.map_append, runElements_append, hrun]
    exact (stepElement_texBlurred s n lo hi).trans hnote

/-- Phase TEX_BLUR fills the first TWL·THL elements of TEX and leaves in BMIN and BMAX the extremes
of what it wrote (R234, R235). -/
theorem exists_runPhase_texBlur {s : State} (h : 0 < texH s * texW s) :
    ∃ lo hi : BitVec 64, Extremes (cellBlur s) (texH s * texW s) lo.toNat hi.toNat ∧
      runPhase .texBlur s = texBlurred s (texH s * texW s) lo hi := by
  obtain ⟨lo, hi, hextremes, hrun⟩ := exists_texBlurred s (texH s * texW s)
  rw [← rasterList_eq_map] at hrun
  exact ⟨lo, hi, hextremes h, hrun⟩

theorem texCells_texBlurred (s : State) (n : Nat) (lo hi : BitVec 64) :
    texH (texBlurred s n lo hi) * texW (texBlurred s n lo hi) = texH s * texW s :=
  rfl

theorem readTex_texBlurred (s : State) {n t : Nat} (lo hi : BitVec 64) (ht : t < n) :
    (readTex (texBlurred s n lo hi) t).toNat = cellBlur s t := by
  have hread : readTex (texBlurred s n lo hi) t = BitVec.ofNat 64 (cellBlur s t) :=
    (readCell_fillCells s .tex s.bufs.tex _ n t).trans (if_pos ht)
  rw [hread, cellBlur_toNat]

theorem readTexRaw_texBlurred (s : State) (n t : Nat) (lo hi : BitVec 64) :
    readTexRaw (texBlurred s n lo hi) t = readTexRaw s t :=
  rfl

theorem peek_texBlurred {s : State} {b : BufId} {n p : Nat} (lo hi : BitVec 64)
    (h : b = .tex → n ≤ p) : peek (texBlurred s n lo hi) b p = peek s b p := by
  cases b
  case tex =>
    exact (readCell_fillCells s .tex s.bufs.tex _ n p).trans (if_neg (Nat.not_lt.mpr (h rfl)))
  all_goals rfl

/-! Phase TEX_NORM. -/

/-- TEX_NORM subtracts BMIN (R236). -/
theorem readTex_runPhase_texNorm {s : State} {t : Nat} (ht : t < texH s * texW s) :
    readTex (runPhase .texNorm s) t = readTex s t - s.seq.bmin := by
  rw [runPhase_texNorm]
  exact (readCell_fillCells s .tex s.bufs.tex _ _ t).trans (if_pos ht)

theorem readTexRaw_runPhase_texNorm (s : State) (t : Nat) :
    readTexRaw (runPhase .texNorm s) t = readTexRaw s t := by
  rw [runPhase_texNorm]
  rfl

/-- TEX_NORM leaves every other buffer, and TEX from index TWL·THL on. -/
theorem peek_runPhase_texNorm {s : State} {b : BufId} {p : Nat}
    (h : b = .tex → texH s * texW s ≤ p) : peek (runPhase .texNorm s) b p = peek s b p := by
  rw [runPhase_texNorm]
  cases b
  case tex =>
    exact (readCell_fillCells s .tex s.bufs.tex _ _ p).trans (if_neg (Nat.not_lt.mpr (h rfl)))
  all_goals rfl

/-! The job of GEN_TEX. -/

/-- The state when phase TEX_FILL of a GEN_TEX job has ended. -/
def texFilled (s : State) : State :=
  runPhase .texFill (accept .genTex s)

/-- The number of cells of the texture that GEN_TEX makes. -/
def texCells (s : State) : Nat :=
  s.regs.texH.toNat * s.regs.texW.toNat

/-- The state that a GEN_TEX job leaves, given the BMIN and BMAX of its blur. -/
def genTexDone (s : State) (lo hi : BitVec 64) : State :=
  complete (runPhase .texNorm (texBlurred (texFilled s) (texCells s) lo hi))

theorem readTex_complete (s : State) (t : Nat) : readTex (complete s) t = readTex s t := rfl

theorem readTexRaw_complete (s : State) (t : Nat) :
    readTexRaw (complete s) t = readTexRaw s t := rfl

section Job

variable {s : State} {lo hi : BitVec 64}

theorem texW_texFilled (s : State) : texW (texFilled s) = s.regs.texW.toNat :=
  texW_runPhase_texFill _

theorem texH_texFilled (s : State) : texH (texFilled s) = s.regs.texH.toNat :=
  texH_runPhase_texFill _

theorem texCells_texFilled (s : State) : texH (texFilled s) * texW (texFilled s) = texCells s := by
  rw [texW_texFilled, texH_texFilled, texCells]

theorem texCell_lt {ty tx : Nat} (hy : ty < s.regs.texH.toNat) (hx : tx < s.regs.texW.toNat) :
    ty * s.regs.texW.toNat + tx < texCells s :=
  (mul_add_lt_mul hy hx).trans_eq (Nat.mul_comm _ _)

/-- GEN_TEX runs its three phases to the end. -/
theorem exec_genTex (hb : s.status.busy = false) (ho : s.env.overlap = false)
    (hfit : textureFits s) (hk : kernelFits s) :
    ∃ lo hi : BitVec 64, Extremes (cellBlur (texFilled s)) (texCells s) lo.toNat hi.toNat ∧
      exec .genTex s = .next (genTexDone s lo hi) := by
  have hpos : 0 < texH (texFilled s) * texW (texFilled s) := by
    rw [texCells_texFilled]
    obtain ⟨hw, -, hh, -⟩ := hfit
    exact Nat.mul_pos hh hw
  have hjob : runPhases (phaseList s.cfg .genTex) (accept .genTex s) =
      runPhase .texNorm (runPhase .texBlur (texFilled s)) := by
    simp only [phaseList, texturePhases, runPhases_cons, runPhases_nil, texFilled]
  obtain ⟨lo, hi, hextremes, hblur⟩ := exists_runPhase_texBlur hpos
  rw [texCells_texFilled] at hextremes hblur
  refine ⟨lo, hi, hextremes, ?_⟩
  rw [exec_completes (i := .genTex) (by decide) hb ⟨hfit, hk⟩ ho, hjob, hblur, genTexDone]

theorem readTex_genTexDone (h : Extremes (cellBlur (texFilled s)) (texCells s) lo.toNat hi.toNat)
    {t : Nat} (ht : t < texCells s) :
    (readTex (genTexDone s lo hi) t).toNat = cellBlur (texFilled s) t - lo.toNat := by
  have hnorm : readTex (genTexDone s lo hi) t =
      readTex (texBlurred (texFilled s) (texCells s) lo hi) t - lo := by
    rw [genTexDone, readTex_complete, readTex_runPhase_texNorm]
    · rfl
    · rwa [texCells_texBlurred, texCells_texFilled]
  have hblur := readTex_texBlurred (texFilled s) lo hi ht
  have hle : lo ≤ readTex (texBlurred (texFilled s) (texCells s) lo hi) t := by
    rw [BitVec.le_def, hblur]
    exact (h.between t ht).1
  rw [hnorm, BitVec.toNat_sub_of_le hle, hblur]

theorem texRange_genTexDone {b : Nat → Nat} {n : Nat} (h : Extremes b n lo.toNat hi.toNat) :
    (genTexDone s lo hi).res.texRange.toNat = hi.toNat - lo.toNat := by
  obtain ⟨i, hlt, hlo⟩ := h.least
  have hle : lo ≤ hi := BitVec.le_def.mpr (hlo ▸ (h.between i hlt).2)
  rw [genTexDone, runPhase_texNorm]
  exact BitVec.toNat_sub_of_le hle

/-- The latched size is that of the new texture. -/
theorem latchedCells_genTexDone (s : State) (lo hi : BitVec 64) :
    (genTexDone s lo hi).res.thl.toNat * (genTexDone s lo hi).res.twl.toNat = texCells s := by
  rw [genTexDone, runPhase_texNorm, texFilled, runPhase_texFill_eq]
  rfl

/-- GEN_TEX leaves every other buffer, and TEX and TEXRAW from index TW·TH on. -/
theorem peek_genTexDone {b : BufId} {p : Nat} (h : b = .tex ∨ b = .texRaw → texCells s ≤ p) :
    peek (genTexDone s lo hi) b p = peek s b p :=
  calc peek (genTexDone s lo hi) b p
      = peek (runPhase .texNorm (texBlurred (texFilled s) (texCells s) lo hi)) b p :=
        peek_complete _ b p
    _ = peek (texBlurred (texFilled s) (texCells s) lo hi) b p :=
        peek_runPhase_texNorm fun hb => by
          rw [texCells_texBlurred, texCells_texFilled]
          exact h (.inl hb)
    _ = peek (texFilled s) b p := peek_texBlurred lo hi fun hb => h (.inl hb)
    _ = peek (accept .genTex s) b p := peek_runPhase_texFill fun hb => h (.inr hb)
    _ = peek s b p := peek_accept .genTex s b p

theorem readTexRaw_texFilled (hc : s.cfg.noiseBitsOk = true) {t : Nat} (ht : t < texCells s) :
    (readTexRaw (texFilled s) t).toNat = draw s.cfg (nextSeed s) t :=
  readTexRaw_runPhase_texFill (s := accept .genTex s) hc ht

/-- Blurring and normalising leave the draws. -/
theorem readTexRaw_genTexDone (s : State) (lo hi : BitVec 64) (t : Nat) :
    readTexRaw (genTexDone s lo hi) t = readTexRaw (texFilled s) t := by
  rw [genTexDone, readTexRaw_complete, readTexRaw_runPhase_texNorm, readTexRaw_texBlurred]

/-- The blur of the draws of the latched seed, by row and column. -/
theorem cellBlur_texFilled (hfit : textureFits s) (hc : s.cfg.noiseBitsOk = true) {ty tx : Nat}
    (hx : tx < s.regs.texW.toNat) :
    cellBlur (texFilled s) (ty * s.regs.texW.toNat + tx) =
      blurRef (draw s.cfg (nextSeed s)) (kernelWeight s) (kernelRadius s) s.regs.texW.toNat
        s.regs.texH.toNat ty tx := by
  obtain ⟨hw, -, hh, -⟩ := hfit
  have hregs : (texFilled s).regs = s.regs := runPhase_regs _ _
  have hweight : kernelWeight (texFilled s) = kernelWeight s := by
    funext d
    simp only [kernelWeight, hregs]
  have hradius : kernelRadius (texFilled s) = kernelRadius s := by
    simp only [kernelRadius, hregs]
  have hrow : (ty * s.regs.texW.toNat + tx) / s.regs.texW.toNat = ty := by
    rw [Nat.mul_comm, Nat.mul_add_div hw, Nat.div_eq_of_lt hx, Nat.add_zero]
  rw [cellBlur, texW_texFilled, hrow, Nat.mul_add_mod_of_lt hx, blurAt_eq_blurRef, hweight, hradius,
    texW_texFilled, texH_texFilled]
  exact blurRef_congr hw hh (fun i => readTexRaw_texFilled hc) _ _ _ _

end Job

/-! Command GEN_TEX. -/

/-- A cell by its row and column, from its linear index. -/
theorem exists_row_column {tw th : Nat} {P : Nat → Prop} (h : ∃ i, i < th * tw ∧ P i) :
    ∃ ty tx, ty < th ∧ tx < tw ∧ P (ty * tw + tx) := by
  obtain ⟨i, hi, hp⟩ := h
  refine ⟨i / tw, i % tw, Nat.div_lt_of_lt_mul (Nat.mul_comm _ _ ▸ hi),
    Nat.mod_lt i (Nat.pos_of_mul_pos_left (Nat.zero_lt_of_lt hi)), ?_⟩
  rwa [Nat.div_add_mod']

/-- Settles O17: the job is TEX_FILL, TEX_BLUR and TEX_NORM, between acceptance and completion, and
BMIN and BMAX are the extremes of the reference sums. -/
theorem genTexCommandMakesTexture : Obligations.GenTexCommandMakesTexture := by
  intro s hb ho hfit hk hc
  obtain ⟨lo, hi, hextremes, hexec⟩ := exec_genTex hb ho hfit hk
  refine ⟨genTexDone s lo hi, lo.toNat, hi.toNat, hexec, fun ty tx hy hx => ?_, ?_, ?_,
    texRange_genTexDone hextremes, ?_, ?_, fun ty tx hy hx => ⟨?_, ?_⟩,
    fun _ _ => peek_genTexDone, ?_⟩
  · exact cellBlur_texFilled hfit hc hx ▸ hextremes.between _ (texCell_lt hy hx)
  · obtain ⟨ty, tx, hy, hx, hlo⟩ := exists_row_column hextremes.least
    exact ⟨ty, tx, hy, hx, (cellBlur_texFilled hfit hc hx).symm.trans hlo⟩
  · obtain ⟨ty, tx, hy, hx, hhi⟩ := exists_row_column hextremes.greatest
    exact ⟨ty, tx, hy, hx, (cellBlur_texFilled hfit hc hx).symm.trans hhi⟩
  · rw [genTexDone, runPhase_texNorm]
    rfl
  · rw [genTexDone, runPhase_texNorm]
    rfl
  · rw [readTexRaw_genTexDone]
    exact readTexRaw_texFilled hc (texCell_lt hy hx)
  · rw [readTex_genTexDone hextremes (texCell_lt hy hx), cellBlur_texFilled hfit hc hx]
    rfl
  · rw [genTexDone, runPhase_texNorm, texFilled, runPhase_texFill_eq]
    rfl

/-- Settles O32: every blurred value lies between BMIN and BMAX, the least one gives 0 and the
greatest one the range. -/
theorem textureIsNormalised : Obligations.TextureIsNormalised := by
  intro s hb ho hfit hk
  obtain ⟨lo, hi, hextremes, hexec⟩ := exec_genTex hb ho hfit hk
  refine ⟨genTexDone s lo hi, hexec, ?_⟩
  rw [latchedCells_genTexDone]
  refine ⟨fun c hc => ?_, ?_, ?_⟩
  · rw [readTex_genTexDone hextremes hc, texRange_genTexDone hextremes]
    exact Nat.sub_le_sub_right (hextremes.between c hc).2 _
  · obtain ⟨c, hc, hlo⟩ := hextremes.least
    refine ⟨c, hc, BitVec.eq_of_toNat_eq ?_⟩
    rw [readTex_genTexDone hextremes hc, hlo, Nat.sub_self]
    rfl
  · obtain ⟨c, hc, hhi⟩ := hextremes.greatest
    refine ⟨c, hc, BitVec.eq_of_toNat_eq ?_⟩
    rw [readTex_genTexDone hextremes hc, texRange_genTexDone hextremes, hhi]

end Sys2Proof.Machine
end

section
/-! No phase reads or writes what acceptance and completion record of a job (40_sequencer.md R157,
R158): a completed job is its phases' work on the state at issue, with the record put on top, and of
two jobs in sequence the second one's record stays. -/

namespace Sys2Proof.Machine

/-! The record of a job. -/

/-- The state with another record of its job: all of STATUS but TEX_VALID, and all hidden state but
BMIN, BMAX and SEEDL, which the phases write (45_bluenoise_texture.md R235, R236, 43_random.md
R186). -/
def withJob (st : Status) (q : Sequencer) (s : State) : State :=
  { s with
    status := { st with texValid := s.status.texValid }
    seq := { q with bmin := s.seq.bmin, bmax := s.seq.bmax, seedL := s.seq.seedL } }

section Record

variable (st st' : Status) (q q' : Sequencer) (s : State)

/-- Of two records the later one stays. -/
theorem withJob_withJob : withJob st q (withJob st' q' s) = withJob st q s := rfl

theorem readGray_withJob (p : Nat) : readGray (withJob st q s) p = readGray s p := rfl

theorem readOut3_withJob (p : Nat) : readOut3 (withJob st q s) p = readOut3 s p := rfl

theorem peek_withJob (b : BufId) (p : Nat) : peek (withJob st q s) b p = peek s b p := by
  cases b <;> rfl

theorem phaseElements_withJob (ph : Phase) :
    phaseElements ph (withJob st q s) = phaseElements ph s :=
  phaseElements_congr rfl rfl ph

theorem reseed_withJob : reseed (withJob st q s) = withJob st q (reseed s) := by
  rw [reseed_eq, reseed_eq]
  rfl

theorem startPhase_withJob (ph : Phase) :
    startPhase ph (withJob st q s) = withJob st q (startPhase ph s) := by
  cases ph
  case random => exact reseed_withJob st q s
  case texFill =>
    exact reseed_withJob st q
      { s with
        res := { s.res with twl := s.regs.texW, thl := s.regs.texH }
        status := { s.status with texValid := false } }
  all_goals rfl

theorem noteExtremes_withJob (t : Nat) (b : BitVec 64) :
    noteExtremes t b (withJob st q s) = withJob st q (noteExtremes t b s) := by
  unfold noteExtremes
  split <;> rfl

theorem stepElement_withJob (ph : Phase) (y x : Nat) :
    stepElement ph y x (withJob st q s) = withJob st q (stepElement ph y x s) := by
  cases ph
  case texBlur => exact noteExtremes_withJob st q (writeTex s (cellIndex s y x) _) _ _
  all_goals rfl

theorem finishPhase_withJob (ph : Phase) :
    finishPhase ph (withJob st q s) = withJob st q (finishPhase ph s) := by
  cases ph <;> rfl

theorem runElements_withJob (ph : Phase) (l : List (Nat × Nat)) :
    runElements ph l (withJob st q s) = withJob st q (runElements ph l s) := by
  induction l generalizing s with
  | nil => rfl
  | cons e r ih => rw [runElements_cons, stepElement_withJob, ih, runElements_cons]

theorem runPhase_withJob (ph : Phase) :
    runPhase ph (withJob st q s) = withJob st q (runPhase ph s) := by
  rw [runPhase, startPhase_withJob, phaseElements_withJob, runElements_withJob,
    finishPhase_withJob, runPhase]

theorem runPhases_withJob (l : List Phase) :
    runPhases l (withJob st q s) = withJob st q (runPhases l s) := by
  induction l generalizing s with
  | nil => rfl
  | cons ph r ih => rw [runPhases_cons, runPhase_withJob, ih, runPhases_cons]

end Record

/-! A job that runs to completion. -/

/-- The state that a completed job leaves: the work of its phases on the state at issue, with the
job's record. -/
def jobDone (i : Instr) (s : State) : State :=
  withJob (doneStatus (opCode i) s.status) (idleSeq (opCode i) s.seq)
    (runPhases (phaseList s.cfg i) s)

/-- The first phase of a command is not FS_SCAN (40_sequencer.md R151). -/
theorem firstColumn_headD_phaseList (i : Instr) (c : Config) :
    firstColumn ((phaseList c i).headD .idle) = 0 := by
  cases i <;> rfl

/-- Acceptance writes nothing but the record. -/
theorem accept_eq_withJob (i : Instr) (s : State) :
    accept i s =
      withJob (acceptStatus s.status)
        { s.seq with
          curOp := opCode i
          phase := (phaseList s.cfg i).headD .idle
          pos := 0, entered := false, sy := 0, sx := 0 } s := by
  rw [accept, pointAtPhase, firstColumn_headD_phaseList]
  rfl

theorem complete_runPhases_accept (i : Instr) (s : State) :
    complete (runPhases (phaseList s.cfg i) (accept i s)) = jobDone i s := by
  rw [accept_eq_withJob, runPhases_withJob]
  rfl

/-- A command that passes its checks and completes before the next input, without its acceptance. -/
theorem exec_jobDone {i : Instr} {s : State} (hi : i ≠ .nop) (hb : s.status.busy = false)
    (hc : checksPass i s) (ho : s.env.overlap = false) : exec i s = .next (jobDone i s) := by
  rw [exec_completes hi hb hc ho, complete_runPhases_accept]

theorem startPhase_overlap (ph : Phase) (s : State) :
    (startPhase ph s).env.overlap = s.env.overlap := by
  cases ph
  case random | texFill =>
    simp only [startPhase, startTexFill, reseed_eq]
    rfl
  all_goals rfl

theorem runPhases_overlap (l : List Phase) (s : State) :
    (runPhases l s).env.overlap = s.env.overlap :=
  runPhases_keeps (P := fun t => t.env.overlap = s.env.overlap) l
    (fun ph t h => by simp [runPhase, startPhase_overlap, h]) rfl

section Done

variable (i : Instr) (s : State)

@[simp] theorem jobDone_busy : (jobDone i s).status.busy = false := rfl

@[simp] theorem jobDone_cfg : (jobDone i s).cfg = s.cfg := runPhases_cfg s _

@[simp] theorem jobDone_regs : (jobDone i s).regs = s.regs := runPhases_regs s _

@[simp] theorem jobDone_overlap : (jobDone i s).env.overlap = s.env.overlap :=
  runPhases_overlap _ s

/-- A job changes nothing that check DIM reads (60_exceptions.md R302). -/
theorem imageFits_jobDone : imageFits (jobDone i s) ↔ imageFits s := by
  simp only [imageFits, imageW, imageH, jobDone_cfg, jobDone_regs]

theorem texValid_jobDone :
    (jobDone i s).status.texValid = (runPhases (phaseList s.cfg i) s).status.texValid := rfl

end Done

/-- The state with another op shown in LAST_OP and CUR_OP (10_state.md R36, R63). -/
def withOp (op : BitVec 4) (s : State) : State :=
  { s with
    status := { s.status with lastOp := op }
    seq := { s.seq with curOp := op } }

/-- Two jobs in sequence are the job of both phase lists, but for the op shown. -/
theorem jobDone_sequence {i j k : Instr} {s : State}
    (h : phaseList s.cfg k = phaseList s.cfg i ++ phaseList s.cfg j) :
    jobDone k s = withOp (opCode k) (jobDone j (jobDone i s)) := by
  have hwork : runPhases (phaseList (jobDone i s).cfg j) (jobDone i s) =
      withJob (doneStatus (opCode i) s.status) (idleSeq (opCode i) s.seq)
        (runPhases (phaseList s.cfg k) s) := by
    rw [jobDone_cfg, h, runPhases_append, ← runPhases_withJob]
    rfl
  rw [jobDone, jobDone, hwork, withJob_withJob]
  rfl

end Sys2Proof.Machine
end

section
/-! The blue-noise ditherer: the comparison of a gray value with the tiled texture
(46_bluenoise_dither.md R261), and what phase BLUE_DITHER and the commands BLUE_DITHER and BLUE do
(R260, R262, R263). -/

namespace Sys2Proof.Machine

/-! The comparison. -/

theorem blueOut_eq_zero_iff (g : Byte) (r d : Nat) :
    blueOut g r d = 0 ↔ g.toNat * r + 255 * d ≤ 255 * r := by
  simp [blueOut]

/-- Settles O33: at gray 0, at range 0 and at gray 255 the comparison leaves D ≤ R, 0 ≤ 0 and
D ≤ 0. -/
theorem blueOutputCornerCases : Obligations.BlueOutputCornerCases := by
  intro g r d hdr
  have hblack : (0 : Byte).toNat = 0 := rfl
  have hwhite : (255 : Byte).toNat = 255 := rfl
  refine ⟨?_, ?_, ?_⟩
  · rw [blueOut_eq_zero_iff, hblack]
    omega
  · rw [blueOut_eq_zero_iff]
    omega
  · rw [blueOut_eq_zero_iff, hwhite]
    omega

/-! Phase BLUE_DITHER, element by element. -/

theorem readGray_runPhase_blueDither (s : State) (p : Nat) :
    readGray (runPhase .blueDither s) p = readGray s p := by
  rw [runPhase_blueDither]
  rfl

theorem readOut3_runPhase_blueDither (s : State) (p : Nat) :
    readOut3 (runPhase .blueDither s) p =
      if p < imageH s * imageW s then
        blueOut (readGray s p) (texRange s)
          (readTex s (tileIndex s (p / imageW s) (p % imageW s))).toNat
      else readOut3 s p := by
  rw [runPhase_blueDither]
  exact readCell_fillCells s .out3 s.bufs.out3 _ (imageH s * imageW s) p

/-- BLUE_DITHER compares pixel (y, x) with its cell of the tiled texture (R260, R261). -/
theorem readOut3_runPhase_blueDither_pixel {s : State} {y x : Nat} (hy : y < imageH s)
    (hx : x < imageW s) :
    readOut3 (runPhase .blueDither s) (pixelIndex s y x) =
      blueOut (readGray s (pixelIndex s y x)) (texRange s) (readTex s (tileIndex s y x)).toNat := by
  rw [readOut3_runPhase_blueDither, if_pos (pixelIndex_lt_area hy hx), pixelIndex_div y hx,
    pixelIndex_mod y hx]

/-- BLUE_DITHER leaves every other buffer, and OUT3 from index W·H on. -/
theorem peek_runPhase_blueDither {s : State} {b : BufId} {p : Nat}
    (h : b = .out3 → imageH s * imageW s ≤ p) :
    peek (runPhase .blueDither s) b p = peek s b p := by
  cases b
  case out3 => simp only [peek, readOut3_runPhase_blueDither, if_neg (Nat.not_lt.mpr (h rfl))]
  all_goals
    rw [runPhase_blueDither]
    rfl

/-! The two phases of command BLUE_DITHER in sequence. -/

section Sequence

variable {s : State}

theorem readGray_grayconv_blueDither {p : Nat} (hp : p < imageH s * imageW s) :
    readGray (runPhase .blueDither (runPhase .grayconv s)) p = grayValue s p := by
  rw [readGray_runPhase_blueDither, readGray_runPhase_grayconv, if_pos hp]

theorem readTex_runPhase_grayconv (t : Nat) : readTex (runPhase .grayconv s) t = readTex s t :=
  peek_runPhase_grayconv (b := .tex) nofun

/-- GRAYCONV leaves the texture's registers. -/
theorem res_runPhase_grayconv : (runPhase .grayconv s).res = s.res := by
  rw [runPhase_grayconv]

theorem tileIndex_runPhase_grayconv (y x : Nat) :
    tileIndex (runPhase .grayconv s) y x = tileIndex s y x := by
  simp only [tileIndex, cellIndex, texH, texW, res_runPhase_grayconv]

/-- BLUE_DITHER compares the gray values that GRAYCONV has just written with the stored texture. -/
theorem readOut3_grayconv_blueDither {y x : Nat} (hy : y < imageH s) (hx : x < imageW s) :
    readOut3 (runPhase .blueDither (runPhase .grayconv s)) (pixelIndex s y x) =
      blueOut (grayValue s (pixelIndex s y x)) (texRange s)
        (readTex s (tileIndex s y x)).toNat := by
  have hout := readOut3_runPhase_blueDither_pixel (s := runPhase .grayconv s) (y := y) (x := x)
    (by rwa [imageH_runPhase]) (by rwa [imageW_runPhase])
  rwa [pixelIndex_runPhase, readGray_runPhase_grayconv, if_pos (pixelIndex_lt_area hy hx), texRange,
    res_runPhase_grayconv, readTex_runPhase_grayconv, tileIndex_runPhase_grayconv] at hout

theorem peek_grayconv_blueDither {b : BufId} {p : Nat}
    (h : b = .gray ∨ b = .out3 → imageH s * imageW s ≤ p) :
    peek (runPhase .blueDither (runPhase .grayconv s)) b p = peek s b p := by
  have hout : b = .out3 → imageH (runPhase .grayconv s) * imageW (runPhase .grayconv s) ≤ p := by
    simpa only [imageH_runPhase, imageW_runPhase] using fun hb => h (.inr hb)
  rw [peek_runPhase_blueDither hout, peek_runPhase_grayconv fun hb => h (.inl hb)]

end Sequence

/-! The commands BLUE_DITHER and BLUE. -/

/-- Settles O18: the job is phase GRAYCONV, then phase BLUE_DITHER, and its record. -/
theorem blueDitherCommandTilesTexture : Obligations.BlueDitherCommandTilesTexture := by
  intro s hb ho hfit hvalid
  have hwork : runPhases (phaseList s.cfg .blueDither) s =
      runPhase .blueDither (runPhase .grayconv s) := rfl
  refine ⟨jobDone .blueDither s, exec_jobDone (by decide) hb ⟨hfit, hvalid⟩ ho,
    fun y x hy hx => ⟨?_, ?_⟩, fun b p h => ?_, ?_⟩
  · rw [jobDone, readGray_withJob, hwork]
    exact readGray_grayconv_blueDither (pixelIndex_lt_area hy hx)
  · rw [jobDone, readOut3_withJob, hwork]
    exact readOut3_grayconv_blueDither hy hx
  · rw [jobDone, peek_withJob, hwork]
    exact peek_grayconv_blueDither h
  · rw [jobDone, hwork, runPhase_blueDither, runPhase_grayconv]
    rfl

/-- GEN_TEX leaves a valid texture (45_bluenoise_texture.md R236). -/
theorem texValid_jobDone_genTex (s : State) : (jobDone .genTex s).status.texValid = true := by
  simp only [texValid_jobDone, phaseList, texturePhases, runPhases_cons, runPhases_nil,
    runPhase_texNorm]

/-- Settles O19: BLUE's phases are those of GEN_TEX and then those of BLUE_DITHER, and GEN_TEX leaves
the valid texture that BLUE_DITHER's check asks for. -/
theorem blueIsGenTexThenBlueDither : Obligations.BlueIsGenTexThenBlueDither := by
  intro s hb ho hfit htex hk
  have hdither : checksPass .blueDither (jobDone .genTex s) :=
    ⟨(imageFits_jobDone .genTex s).mpr hfit, texValid_jobDone_genTex s⟩
  exact ⟨jobDone .blue s, jobDone .genTex s, jobDone .blueDither (jobDone .genTex s),
    exec_jobDone (by decide) hb ⟨hfit, htex, hk⟩ ho,
    exec_jobDone (by decide) hb ⟨htex, hk⟩ ho,
    exec_jobDone (by decide) (jobDone_busy .genTex s) hdither ((jobDone_overlap .genTex s).trans ho),
    jobDone_sequence rfl⟩

end Sys2Proof.Machine
end

section
/-! What NOP and a rejected command do (47_dispatch.md R280, 60_exceptions.md R300 to R303). -/

namespace Sys2Proof.Machine

/-- Settles O9: NOP has no checks and no job, and while BUSY it is turned away as every command
is. -/
theorem nopChangesNothing : Obligations.NopChangesNothing :=
  fun s => ⟨fun hb => by simp [exec, execNop, hb], exec_busy⟩

/-- The error code that a list of checks reports, by whether its first check fails. -/
theorem firstFailing_cons_number (s : State) (c : Check) (l : List Check) :
    (firstFailing s (c :: l)).map (·.code.number) =
      if c.fails s then some c.code.number else (firstFailing s l).map (·.code.number) := by
  rw [firstFailing]
  split <;> rfl

theorem dim_fails (s : State) : Check.fails s .dim = true ↔ ¬imageFits s := by
  rw [← dim_passes, Bool.not_eq_false]

theorem texdim_fails (s : State) : Check.fails s .texdim = true ↔ ¬textureFits s := by
  rw [← texdim_passes, Bool.not_eq_false]

theorem krad_fails (s : State) : Check.fails s .krad = true ↔ ¬kernelFits s := by
  rw [← krad_passes, Bool.not_eq_false]

theorem notex_fails (s : State) : Check.fails s .notex = true ↔ s.status.texValid = false := by
  rw [← Bool.not_eq_true, ← notex_passes, Bool.not_eq_false]

/-- A command's rejection code is that of its first failing check (60_exceptions.md R303). -/
theorem rejectionCode_eq (i : Instr) (s : State) :
    rejectionCode i s = (firstFailing s (checksOf i)).map (·.code.number) := by
  cases i
  case nop => rfl
  all_goals
    simp only [checksOf, firstFailing_cons_number, dim_fails, texdim_fails, krad_fails,
      notex_fails]
    simp only [rejectionCode, ite_not]
    rfl

theorem issueJob_rejects {i : Instr} {l : List Check} {s : State} {c : Check}
    (hb : s.status.busy = false) (hl : firstFailing s l = some c) :
    issueJob i l s = .next (reject c.code s) := by
  simp [issueJob, hb, hl]

theorem exec_rejects {i : Instr} {s : State} {code : BitVec 4} (hb : s.status.busy = false)
    (h : rejectionCode i s = some code) :
    ∃ c : ErrorCode, c.number = code ∧ exec i s = .next (reject c s) := by
  have hi : i ≠ .nop := by
    rintro rfl
    cases h
  rw [rejectionCode_eq, Option.map_eq_some_iff] at h
  obtain ⟨c, hfail, hcode⟩ := h
  exact ⟨c.code, hcode, (exec_eq_issueJob hi s).trans (issueJob_rejects hb hfail)⟩

/-- An illegal word written to CMD is rejected before any check (30_encoding.md R123). -/
theorem hostWrite_cmd_illegal {w : Word} {e : DecodeError} {s : State}
    (hb : s.status.busy = false) (h : decode w = .error e) :
    hostWrite .cmd w s = .next (reject .cmd s) := by
  simp [hostWrite_cmd, issueWord, hb, h]

/-- A rejection raises the interrupt line where it is enabled (60_exceptions.md R310). -/
theorem irq_reject (c : ErrorCode) (s : State) : irq (reject c s) = s.regs.irqEn := by
  simp [irq]

/-- Settles O11: both rejections are `reject`, which writes ERR and ERRCODE. -/
theorem rejectionSetsErrAndCodeOnly : Obligations.RejectionSetsErrAndCodeOnly := by
  refine fun s hb => ⟨fun i code h => ?_, fun w e h => ?_⟩
  · obtain ⟨c, rfl, hexec⟩ := exec_rejects hb h
    exact ⟨reject c s, hexec, rfl, irq_reject c s⟩
  · exact ⟨reject .cmd s, hostWrite_cmd_illegal hb h, rfl, irq_reject .cmd s⟩

end Sys2Proof.Machine
end

section
/-! A step whose next input is reset (70_reset_and_hazards.md R340, R341). -/

namespace Sys2Proof.Machine

theorem step_reset {s : State} {rest : List Input} (h : s.env.inputs = .reset :: rest) :
    step s = .next (resetBlock { s with env := { s.env with inputs := rest } }) := by
  simp only [step, stepOnce, h, takeInput]

/-- An element of TEXRAW, zero-extended, is its number: its low NOISE_BITS bits stay within 24. -/
theorem texRawElement_setWidth (c : Config) {k : Nat} (hk : k < 2 ^ 24) :
    (texRawElement c k).setWidth 64 = BitVec.ofNat 64 (k % 2 ^ c.noiseBits) := by
  have hlt : k % 2 ^ c.noiseBits < 2 ^ 24 := (Nat.mod_le _ _).trans_lt hk
  rw [texRawElement, BitVec.setWidth_ofNat_of_le_of_lt (by decide) hlt]

/-- After reset every buffer element is the free value of the new count of resets (R341, log 7). -/
theorem peek_resetBlock (s : State) (b : BufId) (i : Nat) :
    peek (resetBlock s) b i =
      match b with
      | .tex => Config.unwritten (s.env.epoch + 1) .tex i
      | .acc => ((Config.unwritten (s.env.epoch + 1) .acc i).setWidth 16).setWidth 64
      | .texRaw =>
        BitVec.ofNat 64
          ((Config.unwritten (s.env.epoch + 1) .texRaw i).toNat % 2 ^ 24 % 2 ^ s.cfg.noiseBits)
      | b => ((Config.unwritten (s.env.epoch + 1) b i).setWidth 8).setWidth 64 := by
  cases b
  case tex => exact BitVec.setWidth_eq _
  case texRaw =>
    have hread : peek (resetBlock s) .texRaw i =
        (texRawElement s.cfg
          ((Config.unwritten (s.env.epoch + 1) .texRaw i).setWidth 24).toNat).setWidth 64 := rfl
    rw [hread, texRawElement_setWidth _ (BitVec.isLt _), BitVec.toNat_setWidth]
  all_goals rfl

/-- Settles O35: `resetBlock` is the reset state but for the parameters and the model's own fields,
whether a job runs or not. -/
theorem resetPutsTheBlockInItsResetState : Obligations.ResetPutsTheBlockInItsResetState :=
  fun _ _ h => ⟨_, step_reset h, rfl, rfl, rfl, rfl, rfl, rfl, peek_resetBlock _⟩

end Sys2Proof.Machine
end

section
/-! A write of a configuration register while no job runs, and the read after it
(70_reset_and_hazards.md R357, 10_state.md R34 to R47). -/

namespace Sys2Proof.Machine

/-- The configuration registers, each with its defined bits (10_state.md R34, R37 to R42, R46,
R47). -/
def configMasks : List (Reg × Word) :=
  [(.ctrl, 0x7#32), (.width, 0xFFFF#32), (.height, 0xFFFF#32), (.texW, 0xFFFF#32),
    (.texH, 0xFFFF#32), (.krad, 0x3#32), (.kw0, 0xFFFF#32), (.kw1, 0xFFFF#32), (.kw2, 0xFFFF#32),
    (.kw3, 0xFFFF#32), (.seed, 0xFFFFFFFF#32), (.bufSel, 0x7#32), (.bufAddr, 0xFFFFFFFF#32)]

theorem ne_of_mem_configMasks :
    ∀ e ∈ configMasks, e.1 ≠ .cmd ∧ e.1 ≠ .status ∧ e.1 ≠ .bufData := by decide

theorem hostWrite_setConfig {r : Reg} (hc : r ≠ .cmd) (hs : r ≠ .status) (hd : r ≠ .bufData)
    (v : Word) {s : State} (hb : s.status.busy = false) :
    hostWrite r v s = .next (setConfig r v s) := by
  unfold hostWrite
  rw [hb, Bool.and_false, if_neg (by decide)]
  cases r
  case cmd => exact absurd rfl hc
  case status => exact absurd rfl hs
  case bufData => exact absurd rfl hd
  all_goals rfl

/-- Storing the low n bits of a word and reading them back zero-extended masks the others. -/
theorem setWidth_setWidth_eq_and_mask (v : Word) {n : Nat} (hn : n ≤ 32) :
    (v.setWidth n).setWidth 32 = v &&& BitVec.ofNat 32 (2 ^ n - 1) := by
  have hmask : 2 ^ n - 1 < 2 ^ 32 :=
    (Nat.sub_lt (Nat.two_pow_pos n) Nat.one_pos).trans_le (Nat.pow_le_pow_right (by decide) hn)
  apply BitVec.eq_of_toNat_eq
  rw [BitVec.toNat_setWidth_of_le hn, BitVec.toNat_setWidth, BitVec.toNat_and, BitVec.toNat_ofNat,
    Nat.mod_eq_of_lt hmask, Nat.and_two_pow_sub_one_eq_mod]

/-- CTRL's three fields, from bits 0 to 2 of a word, are the word with its reserved bits 0. -/
theorem ctrlWord_setConfig (v : Word) (s : State) :
    ctrlWord (setConfig .ctrl v s).regs = v &&& 0x7#32 := by
  have hbits : ∀ x : BitVec 3,
      0#29 ++ BitVec.ofBool (x.getLsbD 2) ++ BitVec.ofBool (x.getLsbD 1) ++
        BitVec.ofBool (x.getLsbD 0) = x.setWidth 32 := by decide
  have hlow := hbits (v.setWidth 3)
  rw [setWidth_setWidth_eq_and_mask v (by decide)] at hlow
  simpa [ctrlWord, setConfig] using hlow

/-- A configuration register reads back its defined bits of the value written (R357). -/
theorem readReg_setConfig_same {r : Reg} {mask : Word} (h : (r, mask) ∈ configMasks) (v : Word)
    (s : State) : (readReg r (setConfig r v s)).1 = v &&& mask := by
  have hfield : ∀ n ≤ 32, (v.setWidth n).setWidth 32 = v &&& BitVec.ofNat 32 (2 ^ n - 1) :=
    fun _ => setWidth_setWidth_eq_and_mask v
  have hword : v = v &&& 0xFFFFFFFF#32 := BitVec.and_allOnes.symm
  simp only [configMasks, List.mem_cons, List.not_mem_nil, or_false, Prod.mk.injEq] at h
  cases r <;> simp only [reduceCtorEq, false_and, true_and, false_or, or_false] at h <;> subst h
  case ctrl => exact ctrlWord_setConfig v s
  case krad => exact hfield 2 (by decide)
  case bufSel => exact hfield 3 (by decide)
  case width | height | texW | texH | kw0 | kw1 | kw2 | kw3 => exact hfield 16 (by decide)
  case seed | bufAddr => exact hword

/-- A write of a configuration register is seen in no other register but BUF_DATA, whose value
BUF_SEL and BUF_ADDR choose. -/
theorem readReg_setConfig_other {r r' : Reg} (h : r' ≠ r) (hd : r' ≠ .bufData) (v : Word)
    (s : State) : (readReg r' (setConfig r v s)).1 = (readReg r' s).1 := by
  cases r'
  case bufData => exact absurd rfl hd
  case id | cmd | status | seedUsed | texRangeLo | texRangeHi | texDimL | reserved =>
    rw [setConfig_eq]
    rfl
  all_goals
    cases r <;> simp [readReg, setConfig, ctrlWord] at h ⊢

/-- Settles O36: the write is `setConfig`, which stores the defined bits in fields of the register's
own. -/
theorem configurationReadsBack : Obligations.ConfigurationReadsBack := by
  intro s v r mask hb hmem
  obtain ⟨hc, hs, hd⟩ := ne_of_mem_configMasks (r, mask) hmem
  have hread : readReg r (setConfig r v s) = (v &&& mask, setConfig r v s) :=
    Prod.ext (readReg_setConfig_same hmem v s)
      ((readReg_snd r _).trans (if_neg fun hport => hd hport.1))
  exact ⟨setConfig r v s, hostWrite_setConfig hc hs hd v hb, hread, setConfig_eq r v s,
    fun r' hr hd' => readReg_setConfig_other hr hd' v s⟩

end Sys2Proof.Machine
end

section
/-! Command ALL: the four methods on one gray conversion (47_dispatch.md R281). GRAYCONV writes what
it reads from IN, and nothing else writes GRAY: once it has run, running it again changes nothing
(41_grayscale.md R172), so a job may leave out every gray conversion but its first. -/

namespace Sys2Proof.Machine

/-! A gray conversion of an image that is already converted. -/

/-- GRAY holds what phase GRAYCONV would write to it. -/
def GrayConverted (s : State) : Prop :=
  fillCells s.bufs.gray (grayValue s) (imageH s * imageW s) = s.bufs.gray

/-- Filling a canonical buffer twice with the same values is filling it once. -/
theorem fillCells_fillCells {w : Nat} {c : Cells w} (h : CellsWf c) (g : Nat → BitVec w) (n : Nat) :
    fillCells (fillCells c g n) g n = fillCells c g n := by
  have hfill : CellsWf (fillCells c g n) := fillCells_wf h g n
  refine cells_ext (fillCells_wf hfill g n) hfill fun i => ?_
  rw [cellGet?_fillCells (fillCells c g n)]
  split
  case isTrue hi => rw [cellGet?_fillCells, if_pos hi]
  case isFalse => rfl

theorem runPhase_grayconv_of_converted {s : State} (h : GrayConverted s) :
    runPhase .grayconv s = s := by
  rw [runPhase_grayconv, h]

/-- The gray value of a pixel depends on IN and on what no job changes. -/
theorem grayValue_congr {s t : State} (hc : t.cfg = s.cfg) (hr : t.regs = s.regs)
    (he : t.env.epoch = s.env.epoch) (hi : t.bufs.inp = s.bufs.inp) :
    grayValue t = grayValue s := by
  funext p
  simp only [grayValue, readIn, readCell, hc, hr, he, hi]

theorem GrayConverted.congr {s t : State} (h : GrayConverted s) (hc : t.cfg = s.cfg)
    (hr : t.regs = s.regs) (he : t.env.epoch = s.env.epoch) (hi : t.bufs.inp = s.bufs.inp)
    (hg : t.bufs.gray = s.bufs.gray) : GrayConverted t := by
  rw [GrayConverted, grayValue_congr hc hr he hi, imageH, imageW, hr, hg]
  exact h

/-- A phase may sample TIME_IN, but it leaves the count of resets. -/
theorem runPhase_epoch (ph : Phase) (s : State) :
    (runPhase ph s).env.epoch = s.env.epoch := by
  simp only [runPhase, finishPhase_env, runElements_env]
  cases ph
  case random | texFill => simp [startPhase, startTexFill, reseed_eq, afterReseeds]
  all_goals rfl

/-- Only GRAYCONV writes GRAY. -/
theorem runPhase_gray {ph : Phase} (h : ph ≠ .grayconv) (s : State) :
    (runPhase ph s).bufs.gray = s.bufs.gray := by
  simp only [runPhase, finishPhase_bufs]
  refine runElements_keeps ph (P := fun t => t.bufs.gray = s.bufs.gray) _
    (fun y x t ht => ?_) (by rw [startPhase_bufs])
  rw [stepElement_gray ph y x t h, ht]

theorem grayConverted_runPhase_grayconv {s : State} (h : CellsWf s.bufs.gray) :
    GrayConverted (runPhase .grayconv s) := by
  have hvalue : grayValue (runPhase .grayconv s) = grayValue s :=
    grayValue_congr (runPhase_cfg s _) (runPhase_regs s _) (runPhase_epoch _ s) (runPhase_inp s _)
  rw [GrayConverted, hvalue, imageH_runPhase, imageW_runPhase, runPhase_grayconv]
  exact fillCells_fillCells h _ _

theorem GrayConverted.runPhase {s : State} (h : GrayConverted s) (ph : Phase) :
    GrayConverted (runPhase ph s) := by
  by_cases hph : ph = .grayconv
  · rw [hph, runPhase_grayconv_of_converted h]
    exact h
  · exact h.congr (runPhase_cfg s ph) (runPhase_regs s ph) (runPhase_epoch ph s)
      (runPhase_inp s ph) (runPhase_gray hph s)

/-- On a converted image a job is its other phases. -/
theorem runPhases_filter_of_converted (l : List Phase) {s : State} (h : GrayConverted s) :
    runPhases (l.filter (· ≠ .grayconv)) s = runPhases l s := by
  induction l generalizing s with
  | nil => rfl
  | cons ph r ih =>
    by_cases hph : ph = .grayconv
    · rw [List.filter_cons_of_neg (by simpa using hph), ih h, runPhases_cons, hph,
        runPhase_grayconv_of_converted h]
    · rw [List.filter_cons_of_pos (by simpa using hph), runPhases_cons, ih (h.runPhase ph),
        runPhases_cons]

/-- One gray conversion at the start serves for all of a job. -/
theorem runPhases_one_grayconv (l : List Phase) {s : State} (h : CellsWf s.bufs.gray) :
    runPhases (.grayconv :: l.filter (· ≠ .grayconv)) s = runPhases (.grayconv :: l) s :=
  runPhases_filter_of_converted l (grayConverted_runPhase_grayconv h)

/-! The four methods in sequence. -/

/-- The phases of the four methods after their first gray conversion (40_sequencer.md R151). -/
def fourMethodsTail (c : Config) : List Phase :=
  [.bayer] ++ phaseList c .random ++ phaseList c .fs ++ phaseList c .blue

/-- ALL lists the phases of the four methods, in order, without the later gray conversions
(40_sequencer.md R151). -/
theorem phaseList_all (c : Config) :
    phaseList c .all = .grayconv :: (fourMethodsTail c).filter (· ≠ .grayconv) := by
  cases hb : c.fsBorder <;> simp [phaseList, fourMethodsTail, borderPhases, texturePhases, hb]

/-- ALL does the work of the four methods. -/
theorem runPhases_all {s : State} (h : CellsWf s.bufs.gray) :
    runPhases (phaseList s.cfg .all) s =
      runPhases (phaseList s.cfg .blue) (runPhases (phaseList s.cfg .fs)
        (runPhases (phaseList s.cfg .random) (runPhases (phaseList s.cfg .bayer) s))) := by
  rw [phaseList_all, runPhases_one_grayconv _ h]
  simp only [← runPhases_append]
  rfl

/-- A job on a state with another job's record leaves its own record. -/
theorem jobDone_withJob (j : Instr) (op : BitVec 4) (s t : State) :
    jobDone j (withJob (doneStatus op s.status) (idleSeq op s.seq) t) =
      withJob (doneStatus (opCode j) s.status) (idleSeq (opCode j) s.seq)
        (runPhases (phaseList t.cfg j) t) := by
  rw [jobDone, runPhases_withJob]
  rfl

theorem withOp_withJob (op op' : BitVec 4) (st : Status) (q : Sequencer) (s : State) :
    withOp op (withJob (doneStatus op' st) (idleSeq op' q) s) =
      withJob (doneStatus op st) (idleSeq op q) s := rfl

/-- ALL is the four methods in sequence, but for the op shown. -/
theorem jobDone_all {s : State} (h : CellsWf s.bufs.gray) :
    jobDone .all s =
      withOp 0x8#4 (jobDone .blue (jobDone .fs (jobDone .random (jobDone .bayer s)))) := by
  have hseq : jobDone .blue (jobDone .fs (jobDone .random (jobDone .bayer s))) =
      withJob (doneStatus (opCode .blue) s.status) (idleSeq (opCode .blue) s.seq)
        (runPhases (phaseList s.cfg .all) s) := by
    rw [runPhases_all h, jobDone.eq_def .bayer]
    simp only [jobDone_withJob, runPhases_cfg]
  rw [hseq, withOp_withJob, jobDone]
  rfl

/-- BUSY = 0, a job issued now completes before the next input, and the checks DIM, TEXDIM and KRAD
pass (60_exceptions.md R302). -/
structure PassesSizeChecks (s : State) : Prop where
  idle : s.status.busy = false
  completes : s.env.overlap = false
  image : imageFits s
  texture : textureFits s
  kernel : kernelFits s

theorem PassesSizeChecks.exec {s : State} (h : PassesSizeChecks s) {i : Instr} (hn : i ≠ .nop)
    (hd : i ≠ .blueDither) : exec i s = .next (jobDone i s) := by
  refine exec_jobDone hn h.idle ?_ h.completes
  cases i
  case nop => exact trivial
  case gray | bayer | random | fs => exact h.image
  case genTex => exact ⟨h.texture, h.kernel⟩
  case blueDither => exact absurd rfl hd
  case blue | all => exact ⟨h.image, h.texture, h.kernel⟩

/-- A job changes nothing that the size checks read (60_exceptions.md R302). -/
theorem PassesSizeChecks.jobDone {s : State} (h : PassesSizeChecks s) (i : Instr) :
    PassesSizeChecks (jobDone i s) where
  idle := jobDone_busy i s
  completes := (jobDone_overlap i s).trans h.completes
  image := (imageFits_jobDone i s).mpr h.image
  texture := by simpa only [textureFits, jobDone_cfg, jobDone_regs] using h.texture
  kernel := by simpa only [kernelFits, kernelRadius, jobDone_cfg, jobDone_regs] using h.kernel

/-- Settles O20: the four jobs' work in sequence is ALL's, whose phase list leaves out only the
second, third and fourth gray conversion, and the last job's record stays. -/
theorem allIsTheFourMethodsInSequence : Obligations.AllIsTheFourMethodsInSequence := by
  intro s hb ho hfit htex hk hwf
  obtain ⟨-, hgray, -⟩ := hwf
  have h : PassesSizeChecks s := ⟨hb, ho, hfit, htex, hk⟩
  have h1 := h.jobDone .bayer
  have h2 := h1.jobDone .random
  have h3 := h2.jobDone .fs
  exact ⟨_, _, _, _, _, h.exec (by decide) (by decide), h.exec (by decide) (by decide),
    h1.exec (by decide) (by decide), h2.exec (by decide) (by decide),
    h3.exec (by decide) (by decide), jobDone_all hgray⟩

end Sys2Proof.Machine
end
